-- ==== Sys2Proof/Word.lean ====
section
/-! DEFINITION. The words of the block: the widths of 00_scope.md rules R6 and R9. -/

namespace Sys2Proof

/-- A byte (R8). -/
abbrev Byte := BitVec 8

/-- A port word, `u32` (R9, R70). -/
abbrev Word := BitVec 32

/-- A timestamp in milliseconds, `u32` because `TS_BITS = 32` (R6, R9). -/
abbrev Time := BitVec 32

/-- A channel value, `u11` because `CHW = 11` (R6, R21). -/
abbrev Chan := BitVec 11

/-- A frame: `FLEN = 25` bytes, `F[0]` first (R6, R51). -/
abbrev Frame := Vector Byte 25

/-- A channel vector: `NCH = 16` channel values (R6, R21). -/
abbrev Channels := Vector Chan 16

end Sys2Proof
end

