-- ==== Sys2Proof/Config.lean ====
section
/-! DEFINITION. The build parameters of 00_scope.md rule R6 that a model should take as parameters
(R7; 93_implementation_defined.md I7, I8, I9). `NCH`, `CHW`, `FLEN`, `TS_BITS` and the two flag bit
numbers are fixed by the types and the codec. -/

namespace Sys2Proof

/-- The parameters of R6, each with the value R6 gives as its default. They are constants fixed
when the block is built (R39): no step changes them. -/
structure Config where
  /-- `HEADER`, frame byte 0. PRESUMED value 0x0F: the spec itself marks it as general knowledge
  (D9, G1); log entry 5. -/
  header : Byte := 0x0F
  /-- `FOOTER`, frame byte 24. PRESUMED value 0x00 in the same way; log entry 5. -/
  footer : Byte := 0x00
  /-- `CENTER`, the override value held at reset (R6, R7). -/
  center : Chan := 992
  /-- `OVR_LIFE_MS`, the override lifetime (R6, R7). -/
  ovrLifeMs : Time := 2000
  /-- `DISC_MS`, the frame silence after which the block is Disconnected (R6, R7). -/
  discMs : Time := 100
  /-- `RENOTIFY_MS`, the period of the repeated status (R6, R7). -/
  renotifyMs : Time := 5000
  /-- `INIT_CONNECTED`, OPEN in the spec (R6, D18). DESIGN CHOICE false, unsafe; log entry 6. -/
  initConnected : Bool := false
  deriving DecidableEq, Repr

/-- The block with every parameter at the value R6 states, and `INIT_CONNECTED` at the value that
log entry 6 names. -/
def Config.stated : Config := {}

end Sys2Proof
end

