-- ==== Sys2Proof/Machine/Flags.lean ====
section
/-! DEFINITION. The flag bits of frame byte 23 (20_memory.md rule R51, 40_codec.md rule R104). The
block has no arithmetic flags. -/

namespace Sys2Proof.Machine

/-- `frameLost <- (F[23][2] = 1)`, `FLAG_LOST_BIT = 2` (R6, R102). The other bits of the byte but
bit 3 are reserved and not read (R104). -/
def frameLostBit (flags : Byte) : Bool := flags.getLsbD 2

/-- `failsafe <- (F[23][3] = 1)`, `FLAG_FS_BIT = 3` (R6, R102). -/
def failsafeBit (flags : Byte) : Bool := flags.getLsbD 3

/-- Byte 23 of every frame the block originates (R106, R108). -/
def originatedFlags : Byte := 0x00

end Sys2Proof.Machine
end

