-- ==== Sys2Proof/Machine/Codec.lean ====
section
/-! DEFINITION. The frame codec: Decode and Encode, two pure functions (40_codec.md rules R100 to
R108; the bit order is 20_memory.md rule R52). -/

namespace Sys2Proof.Machine

/-- `pbit(F, k) = F[1 + (k >> 3)][k & 7]`, for payload bits 0 to 175 (R101); false beyond the
frame. -/
def pbit (F : Frame) (k : Nat) : Bool := (F.toList.getD (1 + k / 8) 0).getLsbD (k % 8)

/-- Channel `i` of a frame: its bit `j` is payload bit `11*i + j` (R52, R102). -/
def decodeChannel (F : Frame) (i : Fin 16) : Chan :=
  BitVec.ofFnLE fun j : Fin 11 => pbit F (11 * i.val + j.val)

/-- What Decode answers (R102). -/
structure Decoded where
  ch : Channels
  frameLost : Bool
  failsafe : Bool
  deriving DecidableEq, Repr

/-- Decode (R102). It reads neither `F[0]` nor `F[24]` (R105). -/
def decodeFrame (F : Frame) : Decoded where
  ch := Vector.ofFn fun i => decodeChannel F i
  frameLost := frameLostBit F[23]
  failsafe := failsafeBit F[23]

/-- Bit `k` of the payload stream that packs the channels: value bit `j` of channel `i` is payload
bit `11*i + j` (R52); false beyond the channels. -/
def payloadBit (ch : Channels) (k : Nat) : Bool := (ch.toList.getD (k / 11) 0).getLsbD (k % 11)

/-- Byte `m` of the payload stream, `F[1 + m]` (R52). -/
def payloadByte (ch : Channels) (m : Nat) : Byte :=
  BitVec.ofFnLE fun t : Fin 8 => payloadBit ch (8 * m + t.val)

/-- Encode (R106): the markers, the packed channels, and flags that are always 0 (R108). -/
def encodeFrame (cfg : Config) (ch : Channels) : Frame :=
  Vector.ofFn fun b : Fin 25 =>
    if b.val = 0 then cfg.header
    else if b.val = 24 then cfg.footer
    else if b.val = 23 then originatedFlags
    else payloadByte ch (b.val - 1)

/-- Encode of elements of any width: each is first masked to its low 11 bits, silently (R107,
R193). The block itself calls `encodeFrame` on `out_ch`, whose elements are `u11`. -/
def encodeInts (cfg : Config) (v : Vector Int 16) : Frame :=
  encodeFrame cfg (Vector.ofFn fun i => BitVec.ofInt 11 v[i])

/-- Payload bit `k` of `F` set to 1 (R101, R106). -/
def setPbit (F : Frame) (k : Nat) : Frame :=
  F.setIfInBounds (1 + k / 8) (F.toList.getD (1 + k / 8) 0 ||| BitVec.twoPow 8 (k % 8))

/-- Encode as R106's pseudocode writes it: zero-fill, markers and flags, then a loop over channels
and bits. The machine uses `encodeFrame`; that the two agree is an obligation. -/
def encodeByLoop (cfg : Config) (ch : Channels) : Frame :=
  let F0 : Frame :=
    (((Vector.replicate 25 (0 : Byte)).set 0 cfg.header).set 24 cfg.footer).set 23 originatedFlags
  (List.finRange 16).foldl
    (fun F i => (List.range 11).foldl
      (fun F j => if ch[i].getLsbD j then setPbit F (11 * i.val + j) else F) F)
    F0

/-- One row of R103's byte/shift/mask table: the first byte and the right shift; a third byte is
read when the shift is above 5. -/
def decodeByTable (F : Frame) (i : Fin 16) : Chan :=
  let s := 11 * i.val
  let b := 1 + s / 8
  let sh := s % 8
  let byteAt (k : Nat) : BitVec 24 := (F.toList.getD k 0).zeroExtend 24
  let two := byteAt b >>> sh ||| byteAt (b + 1) <<< (8 - sh)
  let all := if sh > 5 then two ||| byteAt (b + 2) <<< (16 - sh) else two
  (all &&& 0x7FF).truncate 11

/-- The eleven bytes of R106's per-byte form for one group of eight channels. -/
def groupBytes (a : Vector Chan 8) : List Byte :=
  let u (i : Fin 8) (lo n : Nat) : Byte := (a[i].extractLsb' lo n).zeroExtend 8
  [u 0 0 8,
   u 0 8 3 ||| u 1 0 5 <<< 3,
   u 1 5 6 ||| u 2 0 2 <<< 6,
   u 2 2 8,
   u 2 10 1 ||| u 3 0 7 <<< 1,
   u 3 7 4 ||| u 4 0 4 <<< 4,
   u 4 4 7 ||| u 5 0 1 <<< 7,
   u 5 1 8,
   u 5 9 2 ||| u 6 0 6 <<< 2,
   u 6 6 5 ||| u 7 0 3 <<< 5,
   u 7 3 8]

/-- The frame's bytes in R106's per-byte form: header, two groups of eleven, flags, footer. -/
def encodeByBytes (cfg : Config) (ch : Channels) : List Byte :=
  [cfg.header]
    ++ groupBytes (Vector.ofFn fun k : Fin 8 => ch[k.val])
    ++ groupBytes (Vector.ofFn fun k : Fin 8 => ch[k.val + 8])
    ++ [originatedFlags, cfg.footer]

end Sys2Proof.Machine
end

