-- ==== Sys2Proof/Syntax.lean ====
section
/-! DEFINITION. The port transactions: the ten rows of spec/opcode_table.json (30_encoding.md
rules R70 to R72), and the three port words they are encoded in. -/

namespace Sys2Proof

/-- The ten opcodes by name (R72). -/
inductive Op where
  | tickBegin | rxByte | set | setmBegin | setmItem | setmEnd | clear | clearAll | status | tickEnd
  deriving DecidableEq, Repr

/-- A port transaction with its operands (R71, R72). Channel and value operands are `Int`: R71
takes them as mathematical integers after sign extension. -/
inductive Instr where
  /-- TICK_BEGIN: `now` is the tick time. -/
  | tickBegin (now : Time)
  /-- RX_BYTE: one inbound frame byte. -/
  | rxByte (b : Byte)
  /-- SET: override channel `ch` with `val`. -/
  | set (ch val : Int)
  /-- SETM_BEGIN: open a SetMany. -/
  | setmBegin
  /-- SETM_ITEM: one element of a SetMany. -/
  | setmItem (ch val : Int)
  /-- SETM_END: close a SetMany. -/
  | setmEnd
  /-- CLEAR: deactivate the override of channel `ch`. -/
  | clear (ch : Int)
  /-- CLEAR_ALL: deactivate every override. -/
  | clearAll
  /-- STATUS: report the active overrides. -/
  | status
  /-- TICK_END: Apply, telemetry, watchdog. -/
  | tickEnd
  deriving DecidableEq, Repr

/-- The opcode name of a transaction. -/
def Instr.op : Instr → Op
  | .tickBegin _ => .tickBegin
  | .rxByte _ => .rxByte
  | .set _ _ => .set
  | .setmBegin => .setmBegin
  | .setmItem _ _ => .setmItem
  | .setmEnd => .setmEnd
  | .clear _ => .clear
  | .clearAll => .clearAll
  | .status => .status
  | .tickEnd => .tickEnd

/-- A transaction as it is presented: three 32-bit words together (R70). -/
structure PortWords where
  w0 : Word
  w1 : Word
  w2 : Word
  deriving DecidableEq, Repr

end Sys2Proof
end

