-- ==== Sys2Proof/WellFormed.lean ====
section
/-! DEFINITION. Well-formed transactions: the operands of type `i32` lie in the range of `i32`
(30_encoding.md rules R70, R71). The time and byte operands carry their width in their type. -/

namespace Sys2Proof

/-- `n` is a value of the two's-complement type `i32` (R9). -/
def isI32 (n : Int) : Bool := decide (-2147483648 ≤ n ∧ n ≤ 2147483647)

/-- Every operand fits the field of R70 that carries it. -/
def Instr.wf : Instr → Bool
  | .tickBegin _ => true
  | .rxByte _ => true
  | .set ch val => isI32 ch && isI32 val
  | .setmBegin => true
  | .setmItem ch val => isI32 ch && isI32 val
  | .setmEnd => true
  | .clear ch => isI32 ch
  | .clearAll => true
  | .status => true
  | .tickEnd => true

end Sys2Proof
end

