-- ==== Sys2Proof/Decode.lean ====
section
/-! DEFINITION. Decoding and encoding of port transactions: 30_encoding.md rules R70 to R75, and
the byte order of a serialised transaction (20_memory.md rule R54). -/

namespace Sys2Proof

/-- `OP = W0[7:0]` (R70). -/
def PortWords.opField (t : PortWords) : Byte := t.w0.extractLsb' 0 8

/-- `B = W0[15:8]` (R70). -/
def PortWords.bField (t : PortWords) : Byte := t.w0.extractLsb' 8 8

/-- `RSV = W0[31:16]` (R70). -/
def PortWords.rsvField (t : PortWords) : BitVec 16 := t.w0.extractLsb' 16 16

/-- The opcode numbers of R72. -/
def Op.code : Op → Byte
  | .tickBegin => 0x01
  | .rxByte => 0x02
  | .set => 0x03
  | .setmBegin => 0x04
  | .setmItem => 0x05
  | .setmEnd => 0x06
  | .clear => 0x07
  | .clearAll => 0x08
  | .status => 0x09
  | .tickEnd => 0x0A

/-- The opcode a code names; 0x00 and 0x0B..0xFF name none (R72, R74). -/
def Op.ofCode (c : Byte) : Option Op :=
  match c.toNat with
  | 0x01 => some .tickBegin
  | 0x02 => some .rxByte
  | 0x03 => some .set
  | 0x04 => some .setmBegin
  | 0x05 => some .setmItem
  | 0x06 => some .setmEnd
  | 0x07 => some .clear
  | 0x08 => some .clearAll
  | 0x09 => some .status
  | 0x0A => some .tickEnd
  | _ => none

/-- Whether the fields R72 lists under "zero fields" for this opcode are all 0 (R75). -/
def Op.zeroFieldsOk (op : Op) (t : PortWords) : Bool :=
  let b0 := t.bField == 0
  let r0 := t.rsvField == 0
  let a0 := t.w1 == 0
  let v0 := t.w2 == 0
  match op with
  | .tickBegin => b0 && r0 && v0
  | .rxByte => r0 && a0 && v0
  | .set => b0 && r0
  | .setmBegin => b0 && r0 && a0 && v0
  | .setmItem => b0 && r0
  | .setmEnd => b0 && r0 && a0 && v0
  | .clear => b0 && r0 && v0
  | .clearAll => b0 && r0 && a0 && v0
  | .status => b0 && r0 && a0 && v0
  | .tickEnd => b0 && r0 && a0 && v0

/-- Operand assembly (R71): times and bytes as they stand, channels and values sign-extended. -/
def Op.assemble (op : Op) (t : PortWords) : Instr :=
  match op with
  | .tickBegin => .tickBegin t.w1
  | .rxByte => .rxByte t.bField
  | .set => .set t.w1.toInt t.w2.toInt
  | .setmBegin => .setmBegin
  | .setmItem => .setmItem t.w1.toInt t.w2.toInt
  | .setmEnd => .setmEnd
  | .clear => .clear t.w1.toInt
  | .clearAll => .clearAll
  | .status => .status
  | .tickEnd => .tickEnd

/-- Why a transaction has no decoding (R74, R75). -/
inductive DecodeError where
  /-- The opcode is 0x00 or 0x0B..0xFF (R74). -/
  | illegalOpcode
  /-- A field the opcode does not use is not 0 (R75). -/
  | reservedField
  deriving DecidableEq, Repr

/-- Checks 2 and 3 of R77, in that order, then operand assembly. -/
def decode (t : PortWords) : Except DecodeError Instr :=
  match Op.ofCode t.opField with
  | none => .error .illegalOpcode
  | some op => if op.zeroFieldsOk t then .ok (op.assemble t) else .error .reservedField

/-- `W0` with its three fields, the most significant first (R70). -/
def packW0 (rsv : BitVec 16) (b op : Byte) : Word :=
  rsv.zeroExtend 32 <<< 16 ||| b.zeroExtend 32 <<< 8 ||| op.zeroExtend 32

/-- The words of a well-formed transaction (R70 to R72). -/
def encode (i : Instr) : PortWords :=
  match i with
  | .tickBegin now => ⟨packW0 0 0 i.op.code, now, 0⟩
  | .rxByte b => ⟨packW0 0 b i.op.code, 0, 0⟩
  | .set ch val => ⟨packW0 0 0 i.op.code, BitVec.ofInt 32 ch, BitVec.ofInt 32 val⟩
  | .setmBegin => ⟨packW0 0 0 i.op.code, 0, 0⟩
  | .setmItem ch val => ⟨packW0 0 0 i.op.code, BitVec.ofInt 32 ch, BitVec.ofInt 32 val⟩
  | .setmEnd => ⟨packW0 0 0 i.op.code, 0, 0⟩
  | .clear ch => ⟨packW0 0 0 i.op.code, BitVec.ofInt 32 ch, 0⟩
  | .clearAll => ⟨packW0 0 0 i.op.code, 0, 0⟩
  | .status => ⟨packW0 0 0 i.op.code, 0, 0⟩
  | .tickEnd => ⟨packW0 0 0 i.op.code, 0, 0⟩

/-- One row of spec/opcode_table.json: `match` and `mask` over `W0`, and the zero requirements on
`W1` and `W2` (R72). -/
structure OpcodeRow where
  op : Op
  matchBits : Word
  mask : Word
  w1Zero : Bool
  w2Zero : Bool
  deriving DecidableEq, Repr

/-- The rows of spec/opcode_table.json, in its order, written from the table and not from
`decode`. -/
def opcodeRows : List OpcodeRow :=
  [⟨.tickBegin, 0x00000001, 0xFFFFFFFF, false, true⟩,
   ⟨.rxByte, 0x00000002, 0xFFFF00FF, true, true⟩,
   ⟨.set, 0x00000003, 0xFFFFFFFF, false, false⟩,
   ⟨.setmBegin, 0x00000004, 0xFFFFFFFF, true, true⟩,
   ⟨.setmItem, 0x00000005, 0xFFFFFFFF, false, false⟩,
   ⟨.setmEnd, 0x00000006, 0xFFFFFFFF, true, true⟩,
   ⟨.clear, 0x00000007, 0xFFFFFFFF, false, true⟩,
   ⟨.clearAll, 0x00000008, 0xFFFFFFFF, true, true⟩,
   ⟨.status, 0x00000009, 0xFFFFFFFF, true, true⟩,
   ⟨.tickEnd, 0x0000000A, 0xFFFFFFFF, true, true⟩]

/-- The words satisfy a row of the table. -/
def OpcodeRow.admits (r : OpcodeRow) (t : PortWords) : Bool :=
  t.w0 &&& r.mask == r.matchBits && (!r.w1Zero || t.w1 == 0) && (!r.w2Zero || t.w2 == 0)

/-- The three words of a transaction numbered as spec/opcode_table.json numbers bits: bit 0 is the
least significant bit of `W0`, and `W1` and `W2` count on from it. -/
def PortWords.ofNat (v : Nat) : PortWords :=
  ⟨BitVec.ofNat 32 v, BitVec.ofNat 32 (v / 2 ^ 32), BitVec.ofNat 32 (v / 2 ^ 64)⟩

/-- The words whose low `nbits` bits are those of `w` and whose other bits are 0. -/
def tableWords (nbits w : Nat) : PortWords := PortWords.ofNat (w % 2 ^ nbits)

/-- What the decoder reads from an instruction whose low `nbits` bits are `w`. -/
def decodeTableWord (nbits w : Nat) : Option Instr := (decode (tableWords nbits w)).toOption

/-- One word on a byte-wide link, least significant byte first (R54). -/
def wordBytes (w : Word) : List Byte :=
  [w.extractLsb' 0 8, w.extractLsb' 8 8, w.extractLsb' 16 8, w.extractLsb' 24 8]

/-- The word whose bytes are given, least significant first (R54). -/
def wordOfBytes (b0 b1 b2 b3 : Byte) : Word :=
  b3.zeroExtend 32 <<< 24 ||| b2.zeroExtend 32 <<< 16 ||| b1.zeroExtend 32 <<< 8
    ||| b0.zeroExtend 32

/-- A transaction on a byte-wide link: `W0`, `W1`, `W2`, each as `wordBytes` gives it (R54; the
order of the three words is DEDUCED, log entry 13). -/
def PortWords.toBytes (t : PortWords) : List Byte :=
  wordBytes t.w0 ++ wordBytes t.w1 ++ wordBytes t.w2

/-- The transaction that twelve serialised bytes carry; any other number of bytes is no
transaction (R54, R55). -/
def PortWords.ofBytes (bs : List Byte) : Option PortWords :=
  match bs with
  | [a0, a1, a2, a3, b0, b1, b2, b3, c0, c1, c2, c3] =>
    some ⟨wordOfBytes a0 a1 a2 a3, wordOfBytes b0 b1 b2 b3, wordOfBytes c0 c1 c2 c3⟩
  | _ => none

end Sys2Proof
end

