-- ==== Sys2Proof/Machine/State.lean ====
section
/-! DEFINITION. The state of the block: every element of 10_state.md rule R20, the two fields of the
model's own (`cfg`, `host`), the records the block emits (30_encoding.md rule R85), and the state
after reset (70_reset_and_hazards.md rules R220, R221). -/

namespace Sys2Proof.Machine

/-- The tick sequencing phase (R36). -/
inductive Phase where
  /-- Between ticks. -/
  | idle
  /-- Tick open, draining frame bytes. -/
  | rx
  /-- Tick open, commands started. -/
  | cmd
  /-- Inside a SetMany. -/
  | batch
  deriving DecidableEq, Repr

/-- The validation failures of Set and Clear (R141, R192). -/
inductive ErrorCode where
  /-- The channel operand is outside 1..16. -/
  | invalidChannel
  /-- The value operand is outside 0..2047. -/
  | invalidValue
  deriving DecidableEq, Repr

/-- The port fault codes (R197). -/
inductive PortFaultCode where
  | illegalOpcode
  | reservedField
  | sequence
  | batchOverflow
  deriving DecidableEq, Repr

/-- One entry of the OVERRIDE_STATUS list: `(channel, value, remaining_ms)` (R85, R149). -/
structure OverrideEntry where
  channel : Nat
  value : Chan
  remainingMs : Int
  deriving DecidableEq, Repr

/-- The event records (R85). Channel numbers are 1..16 (R11). -/
inductive Event where
  /-- CHANNELS (R174). -/
  | channels (t : Time) (input output : Channels) (overrides : List Nat) (frameLost failsafe : Bool)
  /-- STATUS (R127, R131). -/
  | status (t : Time) (connected : Bool)
  /-- OVERRIDE_EXPIRED (R150). -/
  | overrideExpired (channel : Nat) (t : Time)
  /-- CHANNEL_SET (R143). -/
  | channelSet (channel : Nat) (value : Chan) (t : Time)
  /-- CHANNELS_SET (R146). -/
  | channelsSet (count : Word) (t : Time)
  /-- CHANNEL_CLEARED (R147). -/
  | channelCleared (channel : Nat) (t : Time)
  /-- ALL_CLEARED (R148). -/
  | allCleared (t : Time)
  /-- OVERRIDE_STATUS (R149). -/
  | overrideStatus (t : Time) (overrides : List OverrideEntry)
  /-- ERROR (R141): `op` is the failing transaction's OP, `arg` the operand that failed. -/
  | error (code : ErrorCode) (op : Byte) (arg : Int)
  deriving DecidableEq, Repr

/-- One override record (R25). -/
structure OvRecord where
  active : Bool
  value : Chan
  setAt : Time
  deriving DecidableEq, Repr

/-- What the host does at the port between two states of the block (R5, R58, R70, R220). -/
inductive HostAction where
  /-- Present a transaction (R70). -/
  | transact (t : PortWords)
  /-- Assert reset (R220). -/
  | assertReset
  /-- Remove the oldest entry of `tel` (R58, R65; log entry 3). -/
  | drainTel
  /-- Remove the oldest entry of `ftx` (R58, R65; log entry 3). -/
  | drainFtx
  deriving DecidableEq, Repr

/-- The state of the block (R20). The last two fields are the model's own. -/
structure State where
  /-- `in_ch`: the channels of the last decoded frame (R22). -/
  inCh : Channels
  /-- `out_ch`: the channels after overrides, as last computed (R23). -/
  outCh : Channels
  /-- `frame_lost` of the last decoded frame (R24). -/
  frameLost : Bool
  /-- `failsafe` of the last decoded frame (R24). -/
  failsafe : Bool
  /-- `ov`: the override table (R25). -/
  ov : Vector OvRecord 16
  /-- `buf`: the synchronizer's frame buffer (R29). -/
  buf : Frame
  /-- `idx`: how many bytes of the frame are stored (R29). -/
  idx : BitVec 5
  /-- `connected`: true is Connected (R32). -/
  connected : Bool
  /-- `last_frame_time` (R32). -/
  lastFrameTime : Time
  /-- `last_disc_notify` (R33). -/
  lastDiscNotify : Time
  /-- `phase` (R36). -/
  phase : Phase
  /-- `now`: the time of the current tick (R34). -/
  now : Time
  /-- `frame_done`: a frame completed in this tick (R35). -/
  frameDone : Bool
  /-- `batch_count`: successful items of the open SetMany (R35). -/
  batchCount : Word
  /-- `fault`: the sticky port fault (R39, R198). -/
  fault : Bool
  /-- `fault_code`: the code of the first port fault (R39, R196). -/
  faultCode : Byte
  /-- `tel`: the telemetry queue, oldest entry first (R60, R65). -/
  tel : List Event
  /-- `ftx`: the frame-transmit queue, oldest entry first (R60, R65, R87). -/
  ftx : List Frame
  /-- The MODEL's own: the build parameters of R6, which no step changes (R39; log entry 4). -/
  cfg : Config
  /-- The MODEL's own: what the host does next, soonest first (R5; log entry 1). -/
  host : List HostAction
  deriving DecidableEq, Repr

/-- The reasons the machine stops. There are none: a port fault is state, not a stop (R195, R196,
R198; log entry 9), so no transaction raises one. Safe: nothing is hidden behind a fault. -/
inductive Fault where
  deriving DecidableEq, Repr

/-- The reasons the model gives an instruction no meaning. -/
inductive Refusal where
  /-- Raised by `exec`'s arm of an instruction without a meaning, and by no arm of this model.
  Safe: the run stops where the hardware would go on. -/
  | notModelled (mnemonic : String)
  deriving DecidableEq, Repr

/-- The outcome of a step of this machine. -/
abbrev Result := Host.Outcome State Fault Refusal

/-- The override record at reset: inactive, with the neutral value (R20, R220). -/
def OvRecord.atReset (c : Config) : OvRecord := ⟨false, c.center, 0⟩

/-- The state after reset of a block built with the parameters `c` (R20, R220, R221). -/
def State.resetWith (c : Config) : State where
  inCh := Vector.replicate 16 0
  outCh := Vector.replicate 16 0
  frameLost := false
  failsafe := false
  ov := Vector.replicate 16 (OvRecord.atReset c)
  buf := Vector.replicate 25 0
  idx := 0
  connected := c.initConnected
  lastFrameTime := 0
  lastDiscNotify := 0
  phase := .idle
  now := 0
  frameDone := false
  batchCount := 0
  fault := false
  faultCode := 0
  tel := []
  ftx := []
  cfg := c
  host := []

/-- The state after reset of the block built with the stated parameters (R6, R220), with nothing
presented at its port (log entry 1). -/
def State.reset : State := State.resetWith Config.stated

end Sys2Proof.Machine
end

