-- ==== Sys2Proof/Machine/Operands.lean ====
section
/-! DEFINITION. Operand validation and indexing (42_override.md rule R140, 00_scope.md rules R9 and
R11), and the numbers of the enumerated fields. -/

namespace Sys2Proof.Machine

/-- `valid_ch(n) = (1 <= n <= 16)` (R140). -/
def validCh (n : Int) : Bool := decide (1 ≤ n ∧ n ≤ 16)

/-- `valid_val(v) = (0 <= v <= 2047)` (R140). -/
def validVal (v : Int) : Bool := decide (0 ≤ v ∧ v ≤ 2047)

/-- The index `n - 1` of the record that channel number `n` selects, for a validated `n` (R11,
R50). -/
def chanIndex (n : Int) : Fin 16 := Fin.ofNat 16 (n.toNat - 1)

/-- The channel number `i + 1` of index `i` (R11). -/
def chanNumber (i : Fin 16) : Nat := i.val + 1

/-- `v[10:0]`, the low 11 bits of an integer (R107, R142). -/
def truncChan (v : Int) : Chan := BitVec.ofInt 11 v

/-- `elapsed(a, b) = (a - b) mod 2^32` (R9). -/
def elapsed (a b : Time) : Time := a - b

/-- The indices 0 to 15, upwards (R10). -/
def indices : List (Fin 16) := List.finRange 16

/-- The phase numbers (R36). -/
def Phase.code : Phase → BitVec 2
  | .idle => 0
  | .rx => 1
  | .cmd => 2
  | .batch => 3

/-- The error numbers (R85, R192). -/
def ErrorCode.code : ErrorCode → Byte
  | .invalidChannel => 1
  | .invalidValue => 2

/-- The port fault numbers (R197). -/
def PortFaultCode.code : PortFaultCode → Byte
  | .illegalOpcode => 1
  | .reservedField => 2
  | .sequence => 3
  | .batchOverflow => 4

/-- The port fault that a decoding error raises (R74, R75). -/
def portFaultOf : DecodeError → PortFaultCode
  | .illegalOpcode => .illegalOpcode
  | .reservedField => .reservedField

/-- The tag numbers of the event records (R85). -/
def Event.tag : Event → Nat
  | .channels .. => 1
  | .status .. => 2
  | .overrideExpired .. => 3
  | .channelSet .. => 4
  | .channelsSet .. => 5
  | .channelCleared .. => 6
  | .allCleared .. => 7
  | .overrideStatus .. => 8
  | .error .. => 9

/-- The synchronizer's states, a function of `idx` (R30). -/
inductive SyncState where
  /-- `idx = 0`. -/
  | seeking
  /-- `0 < idx < 25`. -/
  | filling
  /-- `idx = 25`, transient inside one step. -/
  | complete
  /-- `idx > 25`, unreachable. -/
  | stray
  deriving DecidableEq, Repr

/-- The synchronizer's state for a value of `idx` (R30). -/
def syncState (idx : BitVec 5) : SyncState :=
  if idx = 0 then .seeking
  else if idx.toNat < 25 then .filling
  else if idx = 25 then .complete
  else .stray

end Sys2Proof.Machine
end

