-- ==== Sys2Proof/Machine/Ops.lean ====
section
/-! DEFINITION. The named operations over the state that the meanings share: the two emissions
(00_scope.md rule R10), the override table's one write (R142, R147), raising a port fault
(60_exceptions.md rule R196), the phase table (30_encoding.md rule R81) and the checks every
transaction passes (R77), and taking the host's next action. -/

namespace Sys2Proof.Machine

/-- `emit_tel(E)`: append to the telemetry queue (R10, R58). -/
def State.emitTel (s : State) (e : Event) : State := { s with tel := s.tel ++ [e] }

/-- `emit_ftx(F)`: append to the frame-transmit queue (R10, R58). -/
def State.emitFtx (s : State) (F : Frame) : State := { s with ftx := s.ftx ++ [F] }

/-- `S.phase <- p`. -/
def State.setPhase (s : State) (p : Phase) : State := { s with phase := p }

/-- Write override record `i` (R25, R56). -/
def State.setRecord (s : State) (i : Fin 16) (r : OvRecord) : State := { s with ov := s.ov.set i r }

/-- `raise PortFault(code)`: the taking of the block's only fault (R196). The first code is kept,
the fault is sticky, and nothing else changes. There is no return from it but reset (R203). -/
def State.raisePortFault (s : State) (c : PortFaultCode) : State :=
  { s with
    faultCode := if s.faultCode = 0 then c.code else s.faultCode
    fault := true }

/-- Reset, asserted by the host (R220, R222): every element takes its reset value. The build
parameters and what the host does next are not elements of the block and stay. -/
def State.assertReset (s : State) : State := { State.resetWith s.cfg with host := s.host }

/-- The phase table (R81): the phase after the transaction, or none where it is out of sequence. -/
def phaseAfter (op : Op) (p : Phase) : Option Phase :=
  match op, p with
  | .tickBegin, .idle => some .rx
  | .rxByte, .rx => some .rx
  | .set, .rx => some .cmd
  | .set, .cmd => some .cmd
  | .clear, .rx => some .cmd
  | .clear, .cmd => some .cmd
  | .clearAll, .rx => some .cmd
  | .clearAll, .cmd => some .cmd
  | .status, .rx => some .cmd
  | .status, .cmd => some .cmd
  | .setmBegin, .rx => some .batch
  | .setmBegin, .cmd => some .batch
  | .setmItem, .batch => some .batch
  | .setmEnd, .batch => some .cmd
  | .tickEnd, .rx => some .idle
  | .tickEnd, .cmd => some .idle
  | _, _ => none

/-- Checks 1, 4 and 5 of R77 for a decoded transaction: ignored once faulted (R198), a SEQUENCE
fault out of phase (R81), and otherwise the transaction's rule. -/
def guarded (op : Op) (rule : State → State) (s : State) : Result :=
  if s.fault then .next s
  else if (phaseAfter op s.phase).isSome then .next (rule s)
  else .next (s.raisePortFault .sequence)

/-- The words that the block's port shows next, ahead of whatever else the host does. -/
def State.presentNext (s : State) (t : PortWords) : State := { s with host := .transact t :: s.host }

end Sys2Proof.Machine
end

