-- ==== Sys2Proof/Machine/Override.lean ====
section
/-! DEFINITION. The override table's transactions, and Apply: expiry and the output multiplexer
(42_override.md rules R140 to R157). -/

namespace Sys2Proof.Machine

/-- A validation failure: one ERROR record and no other change (R141). -/
def State.reject (s : State) (code : ErrorCode) (op : Op) (arg : Int) : State :=
  s.emitTel (.error code op.code arg)

/-- The two checks of SetCore pass (R140, R142). -/
def validSet (n v : Int) : Bool := validCh n && validVal v

/-- SetCore's report of a failure: the channel is checked first (R140, R142). -/
def State.rejectSet (s : State) (op : Op) (n v : Int) : State :=
  if validCh n then s.reject .invalidValue op v else s.reject .invalidChannel op n

/-- SetCore's write: all three fields of the record (R142). -/
def State.activate (s : State) (n v : Int) : State :=
  s.setRecord (chanIndex n) ⟨true, truncChan v, s.now⟩

/-- The rule of SET (R143). -/
def State.ruleSet (n v : Int) (s : State) : State :=
  State.setPhase
    (if validSet n v then (s.activate n v).emitTel (.channelSet n.toNat (truncChan v) s.now)
     else s.rejectSet .set n v)
    .cmd

/-- SET (R143). -/
def execSet (n v : Int) (s : State) : Result := guarded .set (State.ruleSet n v) s

/-- SETM_BEGIN (R144). -/
def execSetmBegin (s : State) : Result :=
  guarded .setmBegin (fun s => State.setPhase { s with batchCount := 0 } .batch) s

/-- The rule of SETM_ITEM (R145): a valid item that would take the count past `2^32 - 1` raises
BATCH_OVERFLOW and changes nothing else; the phase stays BATCH. -/
def State.ruleSetmItem (n v : Int) (s : State) : State :=
  if validSet n v then
    if s.batchCount = 0xFFFFFFFF then s.raisePortFault .batchOverflow
    else { s.activate n v with batchCount := s.batchCount + 1 }
  else s.rejectSet .setmItem n v

/-- SETM_ITEM (R145). -/
def execSetmItem (n v : Int) (s : State) : Result := guarded .setmItem (State.ruleSetmItem n v) s

/-- SETM_END (R146). -/
def execSetmEnd (s : State) : Result :=
  guarded .setmEnd (fun s => (s.emitTel (.channelsSet s.batchCount s.now)).setPhase .cmd) s

/-- Deactivate record `i`; its value and time stay (R147, R148). -/
def State.deactivate (s : State) (i : Fin 16) : State :=
  s.setRecord i { s.ov[i] with active := false }

/-- The rule of CLEAR (R147). -/
def State.ruleClear (n : Int) (s : State) : State :=
  State.setPhase
    (if validCh n then (s.deactivate (chanIndex n)).emitTel (.channelCleared n.toNat s.now)
     else s.reject .invalidChannel .clear n)
    .cmd

/-- CLEAR (R147). -/
def execClear (n : Int) (s : State) : Result := guarded .clear (State.ruleClear n) s

/-- Every record deactivated, in ascending order (R148). -/
def State.deactivateAll (s : State) : State := indices.foldl State.deactivate s

/-- CLEAR_ALL (R148). -/
def execClearAll (s : State) : Result :=
  guarded .clearAll (fun s => (s.deactivateAll.emitTel (.allCleared s.now)).setPhase .cmd) s

/-- `remaining_ms`, an `Int` that is not clamped (R149, R157). -/
def State.remainingMs (s : State) (i : Fin 16) : Int :=
  (s.cfg.ovrLifeMs.toNat : Int) - ((elapsed s.now s.ov[i].setAt).toNat : Int)

/-- The OVERRIDE_STATUS list: the active records, ascending by channel (R149). -/
def State.statusList (s : State) : List OverrideEntry :=
  (indices.filter fun i => s.ov[i].active).map fun i =>
    ⟨chanNumber i, s.ov[i].value, s.remainingMs i⟩

/-- STATUS (R149). -/
def execStatus (s : State) : Result :=
  guarded .status (fun s => (s.emitTel (.overrideStatus s.now s.statusList)).setPhase .cmd) s

/-- Record `i` is active and its lifetime has passed (R150, R151). -/
def State.expired (s : State) (i : Fin 16) : Bool :=
  s.ov[i].active && decide (s.cfg.ovrLifeMs < elapsed s.now s.ov[i].setAt)

/-- The first half of Apply's loop body: an expired record is deactivated and reported (R150). -/
def State.expireAt (s : State) (i : Fin 16) : State :=
  if s.expired i then (s.deactivate i).emitTel (.overrideExpired (chanNumber i) s.now) else s

/-- The output multiplexer for one channel (R150, R152). -/
def State.selected (s : State) (i : Fin 16) : Chan :=
  if s.ov[i].active then s.ov[i].value else s.inCh[i]

/-- The second half of Apply's loop body: `out_ch[i]` is written (R150). -/
def State.muxAt (s : State) (i : Fin 16) : State :=
  { s with outCh := s.outCh.set i (s.selected i) }

/-- Apply, step (c) of TICK_END: every index in ascending order (R150). -/
def State.applyOverrides (s : State) : State :=
  indices.foldl (fun s i => (s.expireAt i).muxAt i) s

/-- The channel numbers of the active records, ascending (R156). -/
def State.activeChannels (s : State) : List Nat :=
  (indices.filter fun i => s.ov[i].active).map chanNumber

end Sys2Proof.Machine
end

