-- ==== Sys2Proof/Machine/Synchronizer.lean ====
section
/-! DEFINITION. The frame synchronizer, RX_BYTE, and the connection watchdog
(41_synchronizer.md rules R120 to R134). -/

namespace Sys2Proof.Machine

/-- The connect transition (R127): Connected, and a status event, if the block was Disconnected. -/
def State.connect (s : State) : State :=
  if s.connected then s
  else State.emitTel { s with connected := true } (.status s.now true)

/-- FrameComplete (R124): decode the buffer, note the time, and connect. -/
def State.frameComplete (s : State) : State :=
  let d := decodeFrame s.buf
  State.connect
    { s with
      inCh := d.ch
      frameLost := d.frameLost
      failsafe := d.failsafe
      frameDone := true
      lastFrameTime := s.now }

/-- A byte in Seeking: the header starts a frame, any other byte is discarded (R122). -/
def State.seekByte (s : State) (b : Byte) : State :=
  if b = s.cfg.header then { s with buf := s.buf.set 0 b, idx := 1 } else s

/-- `S.buf[S.idx] <- b; S.idx <- S.idx + 1` (R123). -/
def State.storeByte (s : State) (b : Byte) : State :=
  { s with buf := s.buf.setIfInBounds s.idx.toNat b, idx := s.idx + 1 }

/-- The footer test on the 25th byte, and the return to Seeking whether or not it matched (R124,
R125). -/
def State.endFrame (s : State) : State :=
  { (if s.buf[24] = s.cfg.footer then s.frameComplete else s) with idx := 0 }

/-- A byte in Filling: appended, and the frame ended when it was the 25th (R123). -/
def State.fillByte (s : State) (b : Byte) : State :=
  let s1 := s.storeByte b
  if s1.idx = 25 then s1.endFrame else s1

/-- One byte through the synchronizer (R121); with 25 or more bytes stored it is discarded and
`idx` returns to 0 (R126). -/
def State.syncByte (s : State) (b : Byte) : State :=
  if s.idx = 0 then s.seekByte b
  else if s.idx.toNat ≤ 24 then s.fillByte b
  else { s with idx := 0 }

/-- RX_BYTE (R121). -/
def execRxByte (b : Byte) (s : State) : Result :=
  guarded .rxByte (fun s => (s.syncByte b).setPhase .rx) s

/-- `STATUS{t: now, connected: false}`, noting the time of the notification (R33, R131). -/
def State.notifyDisconnected (s : State) : State :=
  State.emitTel { s with lastDiscNotify := s.now } (.status s.now false)

/-- The watchdog step of TICK_END (R131, R132). -/
def State.watchdog (s : State) : State :=
  if s.connected then
    if s.cfg.discMs < elapsed s.now s.lastFrameTime then
      State.notifyDisconnected { s with connected := false }
    else s
  else if s.cfg.renotifyMs < elapsed s.now s.lastDiscNotify then s.notifyDisconnected
  else s

end Sys2Proof.Machine
end

