-- ==== Sys2Proof/Machine/Tick.lean ====
section
/-! DEFINITION. The tick: TICK_BEGIN, TICK_END, telemetry and transmit
(43_tick.md rules R170 to R175). -/

namespace Sys2Proof.Machine

/-- TICK_BEGIN (R170): the time is taken as it is, whatever the last one was. -/
def execTickBegin (t : Time) (s : State) : Result :=
  guarded .tickBegin (fun s => State.setPhase { s with now := t, frameDone := false } .rx) s

/-- The CHANNELS event of this tick (R174). -/
def State.channelsEvent (s : State) : Event :=
  .channels s.now s.inCh s.outCh s.activeChannels s.frameLost s.failsafe

/-- Telemetry and transmit, step (d) of TICK_END (R174). -/
def State.telemetry (s : State) : State :=
  if s.frameDone then (s.emitTel s.channelsEvent).emitFtx (encodeFrame s.cfg s.outCh) else s

/-- TICK_END (R171): steps (c), (d) and (e) in order. -/
def execTickEnd (s : State) : Result :=
  guarded .tickEnd (fun s => s.applyOverrides.telemetry.watchdog.setPhase .idle) s

end Sys2Proof.Machine
end

