-- ==== Sys2Proof/Machine/Dispatch.lean ====
section
/-! DEFINITION. One arm per constructor of Instr: each calls the meaning of its transaction. -/

namespace Sys2Proof.Machine

/-- What a transaction does, once decoded. -/
def exec (i : Instr) (s : State) : Host.Outcome State Fault Refusal :=
  match i with
  | .tickBegin now => Sys2Proof.Machine.execTickBegin now s
  | .rxByte b => Sys2Proof.Machine.execRxByte b s
  | .set ch val => Sys2Proof.Machine.execSet ch val s
  | .setmBegin => Sys2Proof.Machine.execSetmBegin s
  | .setmItem ch val => Sys2Proof.Machine.execSetmItem ch val s
  | .setmEnd => Sys2Proof.Machine.execSetmEnd s
  | .clear ch => Sys2Proof.Machine.execClear ch s
  | .clearAll => Sys2Proof.Machine.execClearAll s
  | .status => Sys2Proof.Machine.execStatus s
  | .tickEnd => Sys2Proof.Machine.execTickEnd s

end Sys2Proof.Machine
end

