-- ==== Sys2Proof/Machine/Port.lean ====
section
/-! DEFINITION. What the block does with the host's next action: a transaction passes the checks of
30_encoding.md rule R77 in their order; reset and draining are the host's other actions. -/

namespace Sys2Proof.Machine

/-- A transaction at the port (R77): ignored once faulted (R198), a port fault if it has no decoding
(R74, R75), and otherwise the transaction's meaning, which makes the remaining checks. -/
def transact (t : PortWords) (s : State) : Result :=
  if s.fault then .next s
  else match decode t with
    | .error e => .next (s.raisePortFault (portFaultOf e))
    | .ok i => exec i s

/-- One action of the host. A drain removes the oldest entry of its queue, if there is one, and has
no other effect (R58; log entry 3). -/
def perform (a : HostAction) (s : State) : Result :=
  match a with
  | .transact t => transact t s
  | .assertReset => .next s.assertReset
  | .drainTel => .next { s with tel := s.tel.tail }
  | .drainFtx => .next { s with ftx := s.ftx.tail }

/-- Take the host's next action, if it has one; without one the block holds its state and does
nothing (R210; log entry 2). -/
def takeAction (s : State) : Result :=
  match s.host with
  | [] => .next s
  | a :: rest => perform a { s with host := rest }

end Sys2Proof.Machine
end

