-- ==== Sys2Proof/Machine/Step.lean ====
section
/-! DEFINITION. One step of the machine: one action of the host, taken atomically
(00_scope.md rule R5, 20_memory.md rule R57). -/

namespace Sys2Proof.Machine

/-- One step (R5, R57). -/
def step (s : State) : Host.Outcome State Fault Refusal := takeAction s

/-- The instruction whose low `nbits` bits are `w`, presented next at the port (log entry 1): the
block fetches nothing (R63), so this stands for the host's presenting it. -/
def State.withFetchWord (s : State) (nbits w : Nat) : State := s.presentNext (tableWords nbits w)

end Sys2Proof.Machine
end

