-- ==== Sys2Proof/Machine/Assembler.lean ====
section
/-! DEFINITION. The assembler's view of the port: pseudo-instructions (30_encoding.md rule R83), the
interpreter's mapping of typed commands to transactions (R84), the grammar of transaction streams
(R78), and the text and hexadecimal forms of a transaction (R82). -/

namespace Sys2Proof.Machine

/-- `SETMANY (c1,v1), ..., (cn,vn)` (R83). -/
def setMany (items : List (Int × Int)) : List Instr :=
  [Instr.setmBegin] ++ items.map (fun p => Instr.setmItem p.1 p.2) ++ [Instr.setmEnd]

/-- `RX_BYTES b1, ..., bn` (R83). -/
def rxBytes (bs : List Byte) : List Instr := bs.map Instr.rxByte

/-- `RX_FRAME F[0..24]`, `F[0]` first (R53, R83). -/
def rxFrame (F : Frame) : List Instr := rxBytes F.toList

/-- `TICK t { body }` (R83). -/
def tick (t : Time) (body : List Instr) : List Instr :=
  [Instr.tickBegin t] ++ body ++ [Instr.tickEnd]

/-- `IDLE_TICK t` (R83). -/
def idleTick (t : Time) : List Instr := tick t []

/-- The interpreter's typed commands (R84), one per command shape of SBT §6. -/
inductive HostCommand where
  | setChannel (n v : Int)
  | setChannels (items : List (Int × Int))
  | clearChannel (n : Int)
  | clearAll
  | status
  | help
  deriving DecidableEq, Repr

/-- The transactions of a typed command; `help` has none (R73, R84). -/
def HostCommand.instrs : HostCommand → List Instr
  | .setChannel n v => [.set n v]
  | .setChannels items => setMany items
  | .clearChannel n => [.clear n]
  | .clearAll => [.clearAll]
  | .status => [.status]
  | .help => []

/-- `command` of the grammar of R78. -/
inductive GrammarCommand where
  | set (ch val : Int)
  | clear (ch : Int)
  | clearAll
  | status
  | batch (items : List (Int × Int))
  deriving DecidableEq, Repr

/-- The transactions of a `command` of R78. -/
def GrammarCommand.instrs : GrammarCommand → List Instr
  | .set ch val => [.set ch val]
  | .clear ch => [.clear ch]
  | .clearAll => [.clearAll]
  | .status => [.status]
  | .batch items => setMany items

/-- `tick` of the grammar of R78: its time, its frame bytes, its commands. -/
structure GrammarTick where
  time : Time
  bytes : List Byte
  commands : List GrammarCommand
  deriving DecidableEq, Repr

/-- The transactions of a `tick` of R78. -/
def GrammarTick.instrs (k : GrammarTick) : List Instr :=
  tick k.time (rxBytes k.bytes ++ k.commands.flatMap GrammarCommand.instrs)

/-- The transactions of a `stream` of R78. -/
def streamInstrs (ticks : List GrammarTick) : List Instr := ticks.flatMap GrammarTick.instrs

/-- The characters of the mnemonics of R72. -/
def mnemonicChars : Op → List Char
  | .tickBegin => ['T', 'I', 'C', 'K', '_', 'B', 'E', 'G', 'I', 'N']
  | .rxByte => ['R', 'X', '_', 'B', 'Y', 'T', 'E']
  | .set => ['S', 'E', 'T']
  | .setmBegin => ['S', 'E', 'T', 'M', '_', 'B', 'E', 'G', 'I', 'N']
  | .setmItem => ['S', 'E', 'T', 'M', '_', 'I', 'T', 'E', 'M']
  | .setmEnd => ['S', 'E', 'T', 'M', '_', 'E', 'N', 'D']
  | .clear => ['C', 'L', 'E', 'A', 'R']
  | .clearAll => ['C', 'L', 'E', 'A', 'R', '_', 'A', 'L', 'L']
  | .status => ['S', 'T', 'A', 'T', 'U', 'S']
  | .tickEnd => ['T', 'I', 'C', 'K', '_', 'E', 'N', 'D']

/-- The mnemonics of R72. -/
def mnemonic (op : Op) : String := String.ofList (mnemonicChars op)

/-- A transaction in the assembler syntax of R82, numbers in decimal (log entry 12). -/
def asmText (i : Instr) : String :=
  match i with
  | .tickBegin now => mnemonic i.op ++ " " ++ toString now.toNat
  | .rxByte b => mnemonic i.op ++ " " ++ toString b.toNat
  | .set ch val => mnemonic i.op ++ " " ++ toString ch ++ ", " ++ toString val
  | .setmBegin => mnemonic i.op
  | .setmItem ch val => mnemonic i.op ++ " " ++ toString ch ++ ", " ++ toString val
  | .setmEnd => mnemonic i.op
  | .clear ch => mnemonic i.op ++ " " ++ toString ch
  | .clearAll => mnemonic i.op
  | .status => mnemonic i.op
  | .tickEnd => mnemonic i.op

/-- The hexadecimal digits, in capitals as R82's example has them. -/
def hexDigits : List Char :=
  ['0', '1', '2', '3', '4', '5', '6', '7', '8', '9', 'A', 'B', 'C', 'D', 'E', 'F']

/-- A word in eight hexadecimal digits (R82). -/
def wordHexChars (w : Word) : List Char :=
  [7, 6, 5, 4, 3, 2, 1, 0].map fun k => hexDigits.getD (w.toNat / 16 ^ k % 16) '0'

/-- The characters of the encoded form `W0:W1:W2` (R82). -/
def portHexChars (t : PortWords) : List Char :=
  wordHexChars t.w0 ++ [':'] ++ wordHexChars t.w1 ++ [':'] ++ wordHexChars t.w2

/-- The encoded form `W0:W1:W2` in hexadecimal (R82). -/
def portHex (t : PortWords) : String := String.ofList (portHexChars t)

/-- The tokens of a line: words and commas; white space separates, and `;` starts a comment (R82;
log entry 12). The accumulator holds the word being read, last character first. -/
def tokensFrom (word : List Char) (line : List Char) : List (List Char) :=
  let flush (rest : List (List Char)) := if word.isEmpty then rest else word.reverse :: rest
  match line with
  | [] => flush []
  | c :: cs =>
    if c = ';' then flush []
    else if c = ' ' || c = '\t' then flush (tokensFrom [] cs)
    else if c = ',' then flush ([','] :: tokensFrom [] cs)
    else tokensFrom (c :: word) cs

/-- The value of a digit character in a base up to 16. -/
def digitValue (base : Nat) (c : Char) : Option Nat :=
  let k := hexDigits.idxOf c.toUpper
  if k < base then some k else none

/-- A non-empty run of digits in a base. -/
def digitsValue (base : Nat) (cs : List Char) : Option Nat :=
  if cs.isEmpty then none
  else cs.foldl (fun acc c => do return (← acc) * base + (← digitValue base c)) (some 0)

/-- An unsigned number, decimal or 0x-hex (R82). -/
def natToken (cs : List Char) : Option Nat :=
  match cs with
  | '0' :: 'x' :: ds => digitsValue 16 ds
  | ds => digitsValue 10 ds

/-- A number that may carry a minus sign (R82: `ch, val: i32`). -/
def intToken (cs : List Char) : Option Int :=
  match cs with
  | '-' :: ds => (natToken ds).map fun n => -(n : Int)
  | ds => (natToken ds).map fun n => (n : Int)

/-- An operand of type `i32` (R82). -/
def i32Token (cs : List Char) : Option Int :=
  (intToken cs).bind fun n => if isI32 n then some n else none

/-- An operand of an unsigned type of the given width (R82). -/
def uToken (w : Nat) (cs : List Char) : Option (BitVec w) :=
  (natToken cs).bind fun n => if n < 2 ^ w then some (BitVec.ofNat w n) else none

/-- The transaction that a line's characters spell, if they spell exactly one (R82). -/
def assembleChars (line : List Char) : Option Instr :=
  match tokensFrom [] line with
  | [m] =>
    if m = mnemonicChars .setmBegin then some .setmBegin
    else if m = mnemonicChars .setmEnd then some .setmEnd
    else if m = mnemonicChars .clearAll then some .clearAll
    else if m = mnemonicChars .status then some .status
    else if m = mnemonicChars .tickEnd then some .tickEnd
    else none
  | [m, a] =>
    if m = mnemonicChars .tickBegin then (uToken 32 a).map Instr.tickBegin
    else if m = mnemonicChars .rxByte then (uToken 8 a).map Instr.rxByte
    else if m = mnemonicChars .clear then (i32Token a).map Instr.clear
    else none
  | [m, a, [','], b] =>
    if m = mnemonicChars .set then
      (i32Token a).bind fun ch => (i32Token b).map fun val => Instr.set ch val
    else if m = mnemonicChars .setmItem then
      (i32Token a).bind fun ch => (i32Token b).map fun val => Instr.setmItem ch val
    else none
  | _ => none

/-- The transaction of one line of assembler text (R82). -/
def assembleLine (line : String) : Option Instr := assembleChars line.toList

end Sys2Proof.Machine
end

