-- ==== Sys2Proof/Safety.lean ====
section
/-! DEFINITION. The terms claims are stated in: runs of transactions (43_tick.md rule R176), what a
run shows (10_state.md rule R40), the invariants of reachable states (10_state.md rule R41), when two
states look the same from outside (70_reset_and_hazards.md rule R221), and ticks at true times (R232). -/

namespace Sys2Proof.Machine

/-- The transactions of a list, one after the other. -/
def execAll : List Instr → State → Result
  | [], s => .next s
  | i :: is, s =>
    match exec i s with
    | .next t => execAll is t
    | .fault r => .fault r
    | .refused r => .refused r

/-- Transactions presented as words, one after the other (R77). -/
def transactAll : List PortWords → State → Result
  | [], s => .next s
  | t :: ts, s =>
    match transact t s with
    | .next u => transactAll ts u
    | .fault r => .fault r
    | .refused r => .refused r

/-- `n` steps of the machine, whatever the host does at each (R5). -/
def runFor (n : Nat) (s : State) : Result := Sys2Proof.core.run n s

/-- What a run shows: `tel`, `ftx` and the fault status (R40, R176). -/
structure Observation where
  tel : List Event
  ftx : List Frame
  fault : Bool
  faultCode : Byte
  deriving DecidableEq, Repr

/-- The observation of a state (R176). -/
def State.observe (s : State) : Observation := ⟨s.tel, s.ftx, s.fault, s.faultCode⟩

/-- A complete run of a block built with `c`: transactions from reset, the last a TICK_END, ending
in IDLE without a fault (R176). -/
def CompleteRun (c : Config) (ts : List PortWords) (t : State) : Prop :=
  transactAll ts (State.resetWith c) = .next t
    ∧ (ts.getLast?.map PortWords.opField = some Op.tickEnd.code)
    ∧ t.phase = .idle ∧ t.fault = false

/-- The invariants of R41. The second of its list, `ov[i].value` in 0..2047, is the type of the
field. -/
structure State.Inv (s : State) : Prop where
  /-- Between transactions `idx` is in 0..24. -/
  idx_le : s.idx.toNat ≤ 24
  /-- The fault flag is set exactly when a code is held. -/
  fault_iff_code : s.fault = true ↔ s.faultCode ≠ 0
  /-- The code is 0 or one of those of R197. -/
  code_known : s.faultCode.toNat ≤ 4

/-- While bytes of a frame are stored, the first of them is the header (R102, R105, R122). -/
def State.HeaderStored (s : State) : Prop := s.idx ≠ 0 → s.buf[0] = s.cfg.header

/-- In an open tick in which a frame completed, the block is Connected and the frame's time is the
tick's (R124, R133, R175). -/
def State.CompletedThisTick (s : State) : Prop :=
  s.phase ≠ .idle → s.frameDone = true → s.connected = true ∧ s.lastFrameTime = s.now

/-- Two states that nothing on `tel`, `ftx` or the fault status tells apart, now or later: they may
differ only in elements that are written before they are next read (R26, R31, R221). -/
structure State.LooksLike (s t : State) : Prop where
  tel : s.tel = t.tel
  ftx : s.ftx = t.ftx
  fault : s.fault = t.fault
  faultCode : s.faultCode = t.faultCode
  phase : s.phase = t.phase
  idx : s.idx = t.idx
  connected : s.connected = t.connected
  lastFrameTime : s.lastFrameTime = t.lastFrameTime
  lastDiscNotify : s.lastDiscNotify = t.lastDiscNotify
  cfg : s.cfg = t.cfg
  host : s.host = t.host
  /-- Bytes at `idx` and above are stale (R31). -/
  buf : ∀ k : Fin 25, k.val < s.idx.toNat → s.buf[k] = t.buf[k]
  active : ∀ i : Fin 16, s.ov[i].active = t.ov[i].active
  /-- The value and time of an inactive record affect no output (R26). -/
  record : ∀ i : Fin 16, s.ov[i].active = true → s.ov[i] = t.ov[i]
  /-- TICK_BEGIN writes these before any rule reads them (R221). -/
  now : s.phase ≠ .idle → s.now = t.now
  frameDone : s.phase ≠ .idle → s.frameDone = t.frameDone
  /-- Read only in a tick with a completed frame, which has overwritten them (R221). -/
  input : s.phase ≠ .idle → s.frameDone = true →
    s.inCh = t.inCh ∧ s.frameLost = t.frameLost ∧ s.failsafe = t.failsafe
  /-- SETM_BEGIN writes it before it is read (R221). -/
  batchCount : s.phase = .batch → s.batchCount = t.batchCount

/-- The host's duty on time, for the true times of consecutive ticks (R232). -/
def TimeDuty (times : List Nat) : Prop :=
  times.IsChain fun a b => a ≤ b ∧ b - a < 2 ^ 31

/-- The time operand that carries a true time (R232). -/
def tickTime (t : Nat) : Time := BitVec.ofNat 32 t

/-- A tick of R78 at a true time: its frame bytes and its commands. -/
structure TimedTick where
  time : Nat
  bytes : List Byte
  commands : List GrammarCommand
  deriving DecidableEq, Repr

/-- The transactions of a tick at a true time (R78, R232). -/
def TimedTick.instrs (k : TimedTick) : List Instr :=
  GrammarTick.instrs { time := tickTime k.time, bytes := k.bytes, commands := k.commands }

/-- The command does not write the override record of channel number `n`: it names another channel or,
where it sets one, a value that fails validation (R140, R142, R147, R148). -/
def GrammarCommand.Spares (n : Int) : GrammarCommand → Prop
  | .set ch val => ¬ (ch = n ∧ 0 ≤ val ∧ val ≤ 2047)
  | .clear ch => ch ≠ n
  | .clearAll => False
  | .status => True
  | .batch items => ∀ p ∈ items, ¬ (p.1 = n ∧ 0 ≤ p.2 ∧ p.2 ≤ 2047)

/-- The batch is shorter than the range of its count (R145). Every other command is. -/
def GrammarCommand.Short : GrammarCommand → Prop
  | .set _ _ => True
  | .clear _ => True
  | .clearAll => True
  | .status => True
  | .batch items => items.length < 2 ^ 32

end Sys2Proof.Machine
end

