-- ==== Sys2Proof/Certificates/Slice0/Obligations.lean ====
section
/-! DEFINITION. The statements for the provers, grouped as the spec's files are. Each docstring names
the rule of spec/ it formalises. Where a statement is about a decoded transaction, its operands are
written as the rules write them: channel number `i + 1` for index `i`, value `v.toNat` for a `u11`
value `v` (R11, R140). A rule that the spec marks `[derived: ...]` is its own inference: a statement of
one has basis 'derived' in OBLIGATIONS.json. -/

open Sys2Proof Sys2Proof.Machine

/-! ### Encoding (30_encoding.md) -/

/-- Decoding the words of a well-formed transaction gives it back, for every operand (R70 to R72). -/
def Obligations.DecodeOfEncode : Prop :=
  ∀ i : Instr, i.wf = true → decode (encode i) = .ok i

/-- Each word triple that decodes is the encoding of what it decodes to, which is well formed: no two
transactions share words, and no bit of the words is dropped (R70 to R72, R75). -/
def Obligations.EncodeOfDecode : Prop :=
  ∀ (t : PortWords) (i : Instr), decode t = .ok i → encode i = t ∧ i.wf = true

/-- The decoder agrees with spec/opcode_table.json: words decode to a transaction of an opcode exactly
when a row of the table for that opcode admits them (R72). -/
def Obligations.DecodeAgreesWithOpcodeTable : Prop :=
  ∀ (t : PortWords) (op : Op),
    (∃ i, decode t = .ok i ∧ i.op = op) ↔ ∃ r ∈ opcodeRows, r.op = op ∧ r.admits t = true

/-- Words written out from R70 and R72 decode to the transactions they stand for (V-ENC-1 to
V-ENC-4 and the words of programs P1 and P4). -/
def Obligations.DecodedExampleWords : Prop :=
  decode ⟨0x00000003, 0x00000003, 0x000005DC⟩ = .ok (.set 3 1500)
    ∧ decode ⟨0x00000F02, 0, 0⟩ = .ok (.rxByte 0x0F)
    ∧ decode ⟨0x00000001, 0x000007D1, 0⟩ = .ok (.tickBegin 2001)
    ∧ decode ⟨0x00000003, 0xFFFFFFFF, 0xFFFFFFFB⟩ = .ok (.set (-1) (-5))
    ∧ decode ⟨0x00000005, 0x00000011, 0x00000005⟩ = .ok (.setmItem 17 5)
    ∧ decode ⟨0x00000007, 0x00000005, 0⟩ = .ok (.clear 5)
    ∧ decode ⟨0x0000000A, 0, 0⟩ = .ok .tickEnd

/-- A transaction carried over a byte-wide link: twelve bytes, of which byte `4*k + j` is bits
`8*j + 7` to `8*j` of word `k`, so each word goes least significant byte first, and the twelve are read
back whole (R54; the order of the three words is the model's, log entry 13). -/
def Obligations.SerialisedTransactionReadBack : Prop :=
  ∀ t : PortWords, t.toBytes.length = 12
    ∧ (∀ (k : Fin 3) (j : Fin 4),
      t.toBytes[4 * k.val + j.val]? = some ((#v[t.w0, t.w1, t.w2][k]).extractLsb' (8 * j.val) 8))
    ∧ PortWords.ofBytes t.toBytes = some t

/-! ### The step and the checks -/

/-- When the host presents words that decode to a transaction, the step runs that transaction's
meaning on the state from which the words have been taken (R57, R63, R77). -/
def Obligations.StepRunsDecodedTransaction : Prop :=
  ∀ (s : State) (t : PortWords) (rest : List HostAction) (i : Instr),
    s.host = .transact t :: rest → decode t = .ok i → step s = exec i { s with host := rest }

/-- The checks of R77 in their order, the first that applies deciding. -/
def Obligations.ChecksInOrder : Prop :=
  ∀ (s : State) (t : PortWords) (rest : List HostAction), s.host = .transact t :: rest →
    let s1 : State := { s with host := rest }
    let code (c : Byte) : Byte := if s.faultCode = 0 then c else s.faultCode
    step s =
      if s.fault = true then .next s1
      else if t.w0.extractLsb' 0 8 = 0 ∨ 0x0B ≤ (t.w0.extractLsb' 0 8).toNat then
        .next { s1 with fault := true, faultCode := code 1 }
      else match opcodeRows.find? (fun r => r.admits t) with
        | none => .next { s1 with fault := true, faultCode := code 2 }
        | some r =>
          if phaseAfter r.op s.phase = none then .next { s1 with fault := true, faultCode := code 3 }
          else exec (r.op.assemble t) s1

/-- The block has no crash or abort path: every step answers a next state (R190, R195); and with nothing
presented the block holds its state and does nothing (R210). -/
def Obligations.EveryStepAnswersAndIdleHolds : Prop :=
  (∀ s : State, ∃ t, step s = .next t) ∧ ∀ s : State, s.host = [] → step s = .next s

/-- The phase table (R81), cell by cell, and its enforcement: a transaction out of sequence raises
SEQUENCE and changes nothing else; one in sequence leaves the phase of the table, unless its rule
raised a port fault, which only SETM_ITEM can do and which leaves the phase unchanged. -/
def Obligations.PhaseTableEnforced : Prop :=
  (∀ (op : Op) (p : Phase), phaseAfter op p =
    if op = .tickBegin then (if p = .idle then some .rx else none)
    else if op = .rxByte then (if p = .rx then some .rx else none)
    else if op = .set ∨ op = .clear ∨ op = .clearAll ∨ op = .status then
      (if p = .rx ∨ p = .cmd then some .cmd else none)
    else if op = .setmBegin then (if p = .rx ∨ p = .cmd then some .batch else none)
    else if op = .setmItem then (if p = .batch then some .batch else none)
    else if op = .setmEnd then (if p = .batch then some .cmd else none)
    else (if p = .rx ∨ p = .cmd then some .idle else none))
  ∧ ∀ (i : Instr) (s : State), s.fault = false →
    (phaseAfter i.op s.phase = none → exec i s = .next { s with
      fault := true
      faultCode := if s.faultCode = 0 then 3 else s.faultCode })
    ∧ ∀ p, phaseAfter i.op s.phase = some p → ∃ t, exec i s = .next t
      ∧ (t.fault = false → t.phase = p)
      ∧ (t.fault = true → t.phase = s.phase ∧ i.op = .setmItem)

/-! ### Port fault and reset (60_exceptions.md, 70_reset_and_hazards.md) -/

/-- Whatever transaction faults, and whichever of the four codes it raises, the port fault sets the
fault status and changes nothing else; a code already held is kept (R196). -/
def Obligations.PortFaultChangesNothingElse : Prop :=
  ∀ (w : PortWords) (s t : State), s.fault = false → transact w s = .next t → t.fault = true →
    ∃ c : Byte, (c = 1 ∨ c = 2 ∨ c = 3 ∨ c = 4)
      ∧ t = { s with fault := true, faultCode := if s.faultCode = 0 then c else s.faultCode }

/-- A port fault is sticky: until the host asserts reset, every transaction is ignored, however many
are presented (R198). Only the host's own draining touches the queues; that a drain leaves an end part
of its queue, removing the oldest entry, is the model's choice (log entry 3). -/
def Obligations.FaultIsStickyUntilReset : Prop :=
  ∀ (n : Nat) (s : State), s.fault = true → HostAction.assertReset ∉ s.host.take n →
    ∃ t, runFor n s = .next t
      ∧ t = { s with host := s.host.drop n, tel := t.tel, ftx := t.ftx }
      ∧ t.tel <:+ s.tel ∧ t.ftx <:+ s.ftx
      ∧ ((∀ a ∈ s.host.take n, ∃ w, a = .transact w) → t.tel = s.tel ∧ t.ftx = s.ftx)

/-- The values that reset leaves, for every value of the build parameters (R220, R221), and the stated
parameters (R6, R7), INIT_CONNECTED being left out because it is open (log entry 6). The two markers
are the spec's general knowledge (log entry 5); `cfg` and `host` are the model's own fields (log
entries 1 and 4). -/
def Obligations.ResetValues : Prop :=
  (∀ c : Config, State.resetWith c =
    { inCh := Vector.replicate 16 0, outCh := Vector.replicate 16 0
      frameLost := false, failsafe := false
      ov := Vector.replicate 16 { active := false, value := c.center, setAt := 0 }
      buf := Vector.replicate 25 0, idx := 0
      connected := c.initConnected, lastFrameTime := 0, lastDiscNotify := 0
      phase := .idle, now := 0, frameDone := false, batchCount := 0
      fault := false, faultCode := 0, tel := [], ftx := []
      cfg := c, host := [] })
  ∧ State.reset = State.resetWith Config.stated
  ∧ Config.stated.header = 0x0F ∧ Config.stated.footer = 0x00 ∧ Config.stated.center = 992
  ∧ Config.stated.ovrLifeMs = 2000 ∧ Config.stated.discMs = 100
  ∧ Config.stated.renotifyMs = 5000

/-- Reset, asserted in whatever state, faulted or not, leaves the reset state and nothing of the state
before it (R220, R222), and it is the only way out of a port fault (R203). -/
def Obligations.ResetErasesAllAndAloneClearsFault : Prop :=
  (∀ (s : State) (rest : List HostAction), s.host = .assertReset :: rest →
    step s = .next { State.resetWith s.cfg with host := rest })
  ∧ ∀ s t : State, s.fault = true → step s = .next t → t.fault = false →
    s.host.head? = some .assertReset

/-- Draining a queue removes its oldest entry and has no other effect on the block (R58; that the
oldest goes first is the model's, log entry 3). -/
def Obligations.DrainOnlyRemovesOldest : Prop :=
  ∀ (s : State) (rest : List HostAction),
    (s.host = .drainTel :: rest → step s = .next { s with host := rest, tel := s.tel.drop 1 })
    ∧ (s.host = .drainFtx :: rest → step s = .next { s with host := rest, ftx := s.ftx.drop 1 })

/-- The build parameters are constants: no step changes one (R39). -/
def Obligations.ParametersNeverChange : Prop :=
  ∀ s t : State, step s = .next t → t.cfg = s.cfg

/-! ### TICK_BEGIN and RX_BYTE (43_tick.md, 41_synchronizer.md) -/

/-- TICK_BEGIN takes any time, clears the frame-done flag and opens the tick; nothing else changes
(R170). -/
def Obligations.TickBeginOpensTick : Prop :=
  ∀ (s : State) (t : Time), s.fault = false → s.phase = .idle →
    exec (.tickBegin t) s = .next { s with now := t, frameDone := false, phase := .rx }

/-- Seeking: a header byte is stored at index 0 and moves to Filling; any other byte is discarded and
changes nothing at all (R122). -/
def Obligations.SeekingTakesOnlyHeader : Prop :=
  ∀ (s : State) (b : Byte), s.fault = false → s.phase = .rx → s.idx = 0 →
    (b = s.cfg.header → exec (.rxByte b) s = .next { s with buf := s.buf.set 0 b, idx := 1 })
    ∧ (b ≠ s.cfg.header → exec (.rxByte b) s = .next s)

/-- Filling, before the last byte: any byte, a header byte too, is stored at `buf[idx]` and `idx`
increases by one; nothing else changes (R123, R128). -/
def Obligations.FillingAppendsAnyByte : Prop :=
  ∀ (s : State) (b : Byte) (k : Fin 25), s.fault = false → s.phase = .rx →
    0 < k.val → k.val < 24 → s.idx = BitVec.ofNat 5 k.val →
    exec (.rxByte b) s =
      .next { s with buf := s.buf.set k.val b, idx := BitVec.ofNat 5 (k.val + 1) }

/-- A footer mismatch at the 25th byte drops the frame: `idx` returns to 0, and nothing else changes
but the stored byte (R125). -/
def Obligations.FooterMismatchDropsFrame : Prop :=
  ∀ (s : State) (b : Byte), s.fault = false → s.phase = .rx → s.idx = 24 → b ≠ s.cfg.footer →
    exec (.rxByte b) s = .next { s with buf := s.buf.set 24 b, idx := 0 }

/-- A matching footer completes the frame: the 25 stored bytes are decoded into the input channels
and flags, the time is noted, the frame-done flag is set, and a Disconnected block connects and says
so; nothing else changes (R124, R127). -/
def Obligations.FooterMatchCompletesFrame : Prop :=
  ∀ (s : State) (b : Byte), s.fault = false → s.phase = .rx → s.idx = 24 → b = s.cfg.footer →
    let F : Frame := s.buf.set 24 b
    exec (.rxByte b) s = .next { s with
      buf := F
      idx := 0
      inCh := (decodeFrame F).ch
      frameLost := (decodeFrame F).frameLost
      failsafe := (decodeFrame F).failsafe
      frameDone := true
      lastFrameTime := s.now
      connected := true
      tel := if s.connected = true then s.tel else s.tel ++ [.status s.now true] }

/-- The stray-state guard: with 25 or more bytes stored, `idx` returns to 0 and the byte is discarded,
a header byte too (R126). -/
def Obligations.StrayByteIsDiscarded : Prop :=
  ∀ (s : State) (b : Byte), s.fault = false → s.phase = .rx → 25 ≤ s.idx.toNat →
    exec (.rxByte b) s = .next { s with idx := 0 }

/-- The synchronisation property in the form that holds (R135): from Seeking, noise without a header
byte and then a frame with its markers complete exactly one frame, at its last byte. Before that byte
only the buffer and `idx` have changed. -/
def Obligations.SynchronisesOnCleanNoise : Prop :=
  ∀ (s : State) (N : List Byte) (F : Frame), s.fault = false → s.phase = .rx → s.idx = 0 →
    (∀ b ∈ N, b ≠ s.cfg.header) → F[0] = s.cfg.header → F[24] = s.cfg.footer →
    (∀ pre, pre <+: N ++ F.toList → pre ≠ N ++ F.toList →
      ∃ (B : Frame) (j : BitVec 5), execAll (rxBytes pre) s = .next { s with buf := B, idx := j })
    ∧ execAll (rxBytes (N ++ F.toList)) s = .next { s with
        buf := F
        idx := 0
        inCh := (decodeFrame F).ch
        frameLost := (decodeFrame F).frameLost
        failsafe := (decodeFrame F).failsafe
        frameDone := true
        lastFrameTime := s.now
        connected := true
        tel := if s.connected = true then s.tel else s.tel ++ [.status s.now true] }

/-- Several frames in one tick: the last one's channels and flags stay, the frame-done flag is single,
and at most one Connected status is emitted (R129). -/
def Obligations.LastFrameOfTickStays : Prop :=
  ∀ (s : State) (Fs : List Frame) (F : Frame), s.fault = false → s.phase = .rx → s.idx = 0 →
    (∀ G ∈ Fs ++ [F], G[0] = s.cfg.header ∧ G[24] = s.cfg.footer) →
    execAll ((Fs ++ [F]).flatMap rxFrame) s = .next { s with
      buf := F
      idx := 0
      inCh := (decodeFrame F).ch
      frameLost := (decodeFrame F).frameLost
      failsafe := (decodeFrame F).failsafe
      frameDone := true
      lastFrameTime := s.now
      connected := true
      tel := if s.connected = true then s.tel else s.tel ++ [.status s.now true] }

/-- A partial frame carries over between ticks: `buf` and `idx` keep their values across TICK_END and
TICK_BEGIN, and a frame whose bytes arrive in two ticks completes in the second (R130). -/
def Obligations.PartialFrameCarriesOver : Prop :=
  ∀ (s : State) (t : Time), s.fault = false → s.phase = .rx →
    (∃ u, execAll [.tickEnd, .tickBegin t] s = .next u ∧ u.idx = s.idx ∧ u.buf = s.buf)
    ∧ ∀ (F : Frame) (m : Nat), s.idx = 0 → F[0] = s.cfg.header → F[24] = s.cfg.footer → m < 25 →
      ∃ u v, execAll (rxBytes (F.toList.take m) ++ [.tickEnd, .tickBegin t]) s = .next u
        ∧ u.frameDone = false ∧ u.inCh = s.inCh
        ∧ execAll (rxBytes (F.toList.drop m)) u = .next v
        ∧ v.inCh = (decodeFrame F).ch ∧ v.frameLost = (decodeFrame F).frameLost
        ∧ v.failsafe = (decodeFrame F).failsafe ∧ v.frameDone = true ∧ v.connected = true
        ∧ v.lastFrameTime = t ∧ v.idx = 0

/-- `in_ch` changes only when a frame completes, and then to the channels of that frame; the two flags
are written in the same step and in no other (R22, R24). -/
def Obligations.InputChangesOnlyOnCompletion : Prop :=
  ∀ (w : PortWords) (s t : State), transact w s = .next t →
    (t.inCh = s.inCh ∧ t.frameLost = s.frameLost ∧ t.failsafe = s.failsafe)
    ∨ (s.fault = false ∧ s.phase = .rx ∧ s.idx = 24 ∧ decode w = .ok (.rxByte s.cfg.footer)
        ∧ t.inCh = (decodeFrame t.buf).ch ∧ t.frameLost = (decodeFrame t.buf).frameLost
        ∧ t.failsafe = (decodeFrame t.buf).failsafe)

/-! ### The codec (40_codec.md) -/

/-- Round trip: decoding an encoded vector gives it back with both flags clear, and for elements of
any width gives each element's low 11 bits (R109). That a negative element counts as its two's
complement is the model's reading, which R107 does not state (log entry 15). -/
def Obligations.DecodeOfEncodedFrame : Prop :=
  (∀ (cfg : Config) (ch : Channels),
    decodeFrame (encodeFrame cfg ch) = { ch := ch, frameLost := false, failsafe := false })
  ∧ ∀ (cfg : Config) (v : Vector Int 16) (i : Fin 16),
    ((decodeFrame (encodeInts cfg v)).ch[i].toNat : Int) = v[i] % 2048
      ∧ (decodeFrame (encodeInts cfg v)).frameLost = false
      ∧ (decodeFrame (encodeInts cfg v)).failsafe = false

/-- Reverse round trip: re-encoding a decoded frame keeps its payload bytes bit for bit, with the
markers set and the flags cleared (R110). -/
def Obligations.EncodeOfDecodedFrame : Prop :=
  ∀ (cfg : Config) (F : Frame),
    let G := encodeFrame cfg (decodeFrame F).ch
    (∀ k : Fin 25, 1 ≤ k.val → k.val ≤ 22 → G[k] = F[k])
      ∧ G[0] = cfg.header ∧ G[23] = 0x00 ∧ G[24] = cfg.footer

/-- Decode in its three forms (R101, R102, R103): each channel is the sum of its payload bits, bit `j`
weighing `2^j`, and the byte/shift/mask table computes the same function. -/
def Obligations.DecodeEqualsBitSumAndTable : Prop :=
  ∀ (F : Frame) (i : Fin 16),
    ((decodeFrame F).ch[i]).toNat
      = ((List.range 11).map fun j => (pbit F (11 * i.val + j)).toNat * 2 ^ j).sum
    ∧ (decodeFrame F).ch[i] = decodeByTable F i

/-- Encode and the loop of R106's pseudocode are the same function (R106). -/
def Obligations.EncodeEqualsLoop : Prop :=
  ∀ (cfg : Config) (ch : Channels), encodeFrame cfg ch = encodeByLoop cfg ch

/-- Encode and R106's per-byte form are the same function (R106). -/
def Obligations.EncodeEqualsPerByteForm : Prop :=
  ∀ (cfg : Config) (ch : Channels), (encodeFrame cfg ch).toList = encodeByBytes cfg ch

/-- Decode reads the payload bytes and bits 2 and 3 of byte 23, and nothing else: two frames that
agree there decode to the same result, whatever their markers and reserved bits (R104, R105). -/
def Obligations.DecodeIgnoresReservedBits : Prop :=
  ∀ F G : Frame, (∀ k : Fin 25, 1 ≤ k.val → k.val ≤ 22 → F[k] = G[k]) →
    F[23].getLsbD 2 = G[23].getLsbD 2 → F[23].getLsbD 3 = G[23].getLsbD 3 →
    decodeFrame F = decodeFrame G ∧ (decodeFrame F).frameLost = F[23].getLsbD 2
      ∧ (decodeFrame F).failsafe = F[23].getLsbD 3

/-! ### The override table (42_override.md) -/

/-- A valid SET writes all three fields of its record, whatever it held, reports the value and moves
to CMD; nothing else changes (R142, R143). -/
def Obligations.SetWritesRecord : Prop :=
  ∀ (s : State) (i : Fin 16) (v : Chan), s.fault = false → (s.phase = .rx ∨ s.phase = .cmd) →
    exec (.set (i.val + 1) v.toNat) s = .next { s with
      ov := s.ov.set i { active := true, value := v, setAt := s.now }
      tel := s.tel ++ [.channelSet (i.val + 1) v s.now]
      phase := .cmd }

/-- A SET that fails validation emits one ERROR record and changes nothing but the phase; the channel
is checked first, so a bad channel hides a bad value (R140, R141, R143). -/
def Obligations.SetReportsInvalidOperand : Prop :=
  ∀ (s : State) (n v : Int), s.fault = false → (s.phase = .rx ∨ s.phase = .cmd) →
    (¬ (1 ≤ n ∧ n ≤ 16) → exec (.set n v) s = .next { s with
      tel := s.tel ++ [.error .invalidChannel 0x03 n], phase := .cmd })
    ∧ (1 ≤ n → n ≤ 16 → ¬ (0 ≤ v ∧ v ≤ 2047) → exec (.set n v) s = .next { s with
      tel := s.tel ++ [.error .invalidValue 0x03 v], phase := .cmd })

/-- SETM_BEGIN opens a batch with a count of 0; SETM_END reports the count and closes it; nothing else
changes (R144, R146). -/
def Obligations.BatchOpensAndCloses : Prop :=
  ∀ s : State, s.fault = false →
    ((s.phase = .rx ∨ s.phase = .cmd) →
      exec .setmBegin s = .next { s with batchCount := 0, phase := .batch })
    ∧ (s.phase = .batch → exec .setmEnd s = .next { s with
      tel := s.tel ++ [.channelsSet s.batchCount s.now], phase := .cmd })

/-- A valid SETM_ITEM writes its record and counts it, without an event of its own (R142, R145). -/
def Obligations.SetmItemWritesAndCounts : Prop :=
  ∀ (s : State) (i : Fin 16) (v : Chan), s.fault = false → s.phase = .batch →
    s.batchCount ≠ 0xFFFFFFFF →
    exec (.setmItem (i.val + 1) v.toNat) s = .next { s with
      ov := s.ov.set i { active := true, value := v, setAt := s.now }
      batchCount := s.batchCount + 1 }

/-- A SETM_ITEM that fails validation emits one ERROR record and changes nothing else, even when the
count is full; a valid one when the count is full raises BATCH_OVERFLOW (R141, R145). -/
def Obligations.SetmItemReportsOrOverflows : Prop :=
  ∀ (s : State) (n v : Int), s.fault = false → s.phase = .batch →
    (¬ (1 ≤ n ∧ n ≤ 16) → exec (.setmItem n v) s = .next { s with
      tel := s.tel ++ [.error .invalidChannel 0x05 n] })
    ∧ (1 ≤ n → n ≤ 16 → ¬ (0 ≤ v ∧ v ≤ 2047) → exec (.setmItem n v) s = .next { s with
      tel := s.tel ++ [.error .invalidValue 0x05 v] })
    ∧ (1 ≤ n → n ≤ 16 → 0 ≤ v → v ≤ 2047 → s.batchCount = 0xFFFFFFFF →
      exec (.setmItem n v) s = .next { s with
        fault := true
        faultCode := if s.faultCode = 0 then 4 else s.faultCode })

/-- A valid CLEAR deactivates its record, active or not, keeps the record's value and time, and
reports it; an invalid one reports InvalidChannel and changes nothing but the phase (R141, R147). -/
def Obligations.ClearDeactivatesRecord : Prop :=
  ∀ s : State, s.fault = false → (s.phase = .rx ∨ s.phase = .cmd) →
    (∀ i : Fin 16, exec (.clear (i.val + 1)) s = .next { s with
      ov := s.ov.set i { active := false, value := s.ov[i].value, setAt := s.ov[i].setAt }
      tel := s.tel ++ [.channelCleared (i.val + 1) s.now]
      phase := .cmd })
    ∧ ∀ n : Int, ¬ (1 ≤ n ∧ n ≤ 16) → exec (.clear n) s = .next { s with
      tel := s.tel ++ [.error .invalidChannel 0x07 n], phase := .cmd }

/-- CLEAR_ALL deactivates every record, keeps every value and time, and always reports success; nothing
else changes (R148). -/
def Obligations.ClearAllDeactivatesEveryRecord : Prop :=
  ∀ s : State, s.fault = false → (s.phase = .rx ∨ s.phase = .cmd) →
    exec .clearAll s = .next { s with
      ov := Vector.ofFn fun i : Fin 16 =>
        { active := false, value := s.ov[i].value, setAt := s.ov[i].setAt }
      tel := s.tel ++ [.allCleared s.now]
      phase := .cmd }

/-- STATUS lists the active records in ascending order with their remaining time, an integer that is
not clamped, and changes nothing but the phase: it expires no record (R149, R157). -/
def Obligations.StatusListsActiveRecords : Prop :=
  ∀ s : State, s.fault = false → (s.phase = .rx ∨ s.phase = .cmd) →
    exec .status s = .next { s with
      tel := s.tel ++ [.overrideStatus s.now
        ((List.finRange 16).filterMap fun i : Fin 16 =>
          if s.ov[i].active = true then some
            { channel := i.val + 1
              value := s.ov[i].value
              remainingMs :=
                (s.cfg.ovrLifeMs.toNat : Int) - ((s.now - s.ov[i].setAt).toNat : Int) }
          else none)]
      phase := .cmd }

/-- The laws of the table (R158): (1) CLEAR_ALL then STATUS lists nothing; (2) CLEAR on an inactive
channel changes no state but the phase and reports it; (3) a failing SET, SETM_ITEM or CLEAR changes
no state but the phase; (4) CHANNELS_SET counts the items that passed both checks. -/
def Obligations.LawsOfOverrideTable : Prop :=
  (∀ s : State, s.fault = false → (s.phase = .rx ∨ s.phase = .cmd) →
    ∃ t, execAll [.clearAll, .status] s = .next t
      ∧ t.tel = s.tel ++ [.allCleared s.now, .overrideStatus s.now []])
  ∧ (∀ (s : State) (i : Fin 16), s.fault = false → (s.phase = .rx ∨ s.phase = .cmd) →
    s.ov[i].active = false →
    exec (.clear (i.val + 1)) s = .next { s with
      tel := s.tel ++ [.channelCleared (i.val + 1) s.now], phase := .cmd })
  ∧ (∀ (s t : State) (n v : Int), s.fault = false →
    (((s.phase = .rx ∨ s.phase = .cmd) ∧ ¬ (1 ≤ n ∧ n ≤ 16 ∧ 0 ≤ v ∧ v ≤ 2047)
        ∧ exec (.set n v) s = .next t)
      ∨ (s.phase = .batch ∧ ¬ (1 ≤ n ∧ n ≤ 16 ∧ 0 ≤ v ∧ v ≤ 2047)
        ∧ exec (.setmItem n v) s = .next t)
      ∨ ((s.phase = .rx ∨ s.phase = .cmd) ∧ ¬ (1 ≤ n ∧ n ≤ 16) ∧ exec (.clear n) s = .next t)) →
    t = { s with tel := t.tel, phase := t.phase })
  ∧ (∀ (s : State) (items : List (Int × Int)), s.fault = false →
    (s.phase = .rx ∨ s.phase = .cmd) → items.length < 2 ^ 32 →
    ∃ t, execAll (setMany items) s = .next t
      ∧ t.tel.getLast? = some (.channelsSet
        (BitVec.ofNat 32 (items.countP fun p =>
          decide (1 ≤ p.1 ∧ p.1 ≤ 16 ∧ 0 ≤ p.2 ∧ p.2 ≤ 2047))) s.now))

/-- A SetMany applies each valid element independently, the later of two for one channel staying, and
reports each invalid element once, in order, before its one success response (R145, R146, R79). -/
def Obligations.SetManyAppliesEachElement : Prop :=
  ∀ (s : State) (items : List (Int × Int)), s.fault = false → (s.phase = .rx ∨ s.phase = .cmd) →
    items.length < 2 ^ 32 →
    ∃ t, execAll (setMany items) s = .next t
      ∧ t.phase = .cmd ∧ t.fault = false
      ∧ (∀ i : Fin 16, t.ov[i] =
        match (items.filter fun p : Int × Int =>
            decide (p.1 = (i.val : Int) + 1 ∧ 0 ≤ p.2 ∧ p.2 ≤ 2047)).getLast? with
        | some p => { active := true, value := BitVec.ofInt 11 p.2, setAt := s.now }
        | none => s.ov[i])
      ∧ t.tel = s.tel
        ++ (items.filterMap fun p =>
          if ¬ (1 ≤ p.1 ∧ p.1 ≤ 16) then some (Event.error .invalidChannel 0x05 p.1)
          else if ¬ (0 ≤ p.2 ∧ p.2 ≤ 2047) then some (Event.error .invalidValue 0x05 p.2)
          else none)
        ++ [.channelsSet t.batchCount s.now]

/-- The table's only mutators are SET, SETM_ITEM, CLEAR, CLEAR_ALL and the expiry in TICK_END's Apply,
which only deactivates (R28). -/
def Obligations.OnlyCommandsAndExpiryWriteTable : Prop :=
  ∀ (w : PortWords) (s t : State), transact w s = .next t → t.ov ≠ s.ov →
    ∃ i, decode w = .ok i
      ∧ ((∃ n v, i = .set n v) ∨ (∃ n v, i = .setmItem n v) ∨ (∃ n, i = .clear n) ∨ i = .clearAll
        ∨ (i = .tickEnd ∧ ∀ k : Fin 16, t.ov[k] = s.ov[k]
            ∨ (s.ov[k].active = true ∧ s.cfg.ovrLifeMs < s.now - s.ov[k].setAt
              ∧ t.ov[k] = { active := false, value := s.ov[k].value, setAt := s.ov[k].setAt })))

/-! ### TICK_END: Apply, telemetry, watchdog (42, 43, 41) -/

/-- Everything TICK_END does (R150, R171, R174, R131, R156, and the order of R172): expired records
are deactivated and reported in ascending order, every output is recomputed, a tick with a completed
frame reports and transmits it after Apply, the watchdog runs last, and the phase returns to IDLE;
nothing else changes. -/
def Obligations.TickEndEffect : Prop :=
  ∀ s : State, s.fault = false → (s.phase = .rx ∨ s.phase = .cmd) →
    let expired (i : Fin 16) : Bool :=
      s.ov[i].active && decide (s.cfg.ovrLifeMs < s.now - s.ov[i].setAt)
    let active (i : Fin 16) : Bool := s.ov[i].active && !expired i
    let out : Channels := Vector.ofFn fun i => if active i then s.ov[i].value else s.inCh[i]
    let silent : Bool :=
      if s.connected then decide (s.cfg.discMs < s.now - s.lastFrameTime)
      else decide (s.cfg.renotifyMs < s.now - s.lastDiscNotify)
    exec .tickEnd s = .next { s with
      ov := Vector.ofFn fun i : Fin 16 =>
        { active := active i, value := s.ov[i].value, setAt := s.ov[i].setAt }
      outCh := out
      tel := s.tel
        ++ ((List.finRange 16).filter expired).map
            (fun i : Fin 16 => Event.overrideExpired (i.val + 1) s.now)
        ++ (if s.frameDone then
              [.channels s.now s.inCh out
                (((List.finRange 16).filter active).map fun i : Fin 16 => i.val + 1)
                s.frameLost s.failsafe]
            else [])
        ++ (if silent then [.status s.now false] else [])
      ftx := s.ftx ++ (if s.frameDone then [encodeFrame s.cfg out] else [])
      connected := s.connected && !silent
      lastDiscNotify := if silent then s.now else s.lastDiscNotify
      phase := .idle }

/-- The expiry boundary with the stated lifetime: up to and at 2000 ms the record stays active and the
output is its value, and from 2001 ms on it is inactive and the output is the input (R151). -/
def Obligations.ExpiryBoundary : Prop :=
  ∀ (s : State) (i : Fin 16) (v : Chan) (t0 : Time), s.fault = false →
    (s.phase = .rx ∨ s.phase = .cmd) → s.cfg.ovrLifeMs = 2000 →
    s.ov[i] = { active := true, value := v, setAt := t0 } →
    ∃ t, exec .tickEnd s = .next t
      ∧ ((s.now - t0).toNat ≤ 2000 → t.ov[i].active = true ∧ t.outCh[i] = v)
      ∧ (2000 < (s.now - t0).toNat → t.ov[i].active = false ∧ t.outCh[i] = s.inCh[i])
      ∧ (s.now = t0 + 2000 → t.outCh[i] = v)
      ∧ (s.now = t0 + 2001 → t.outCh[i] = s.inCh[i])

/-- An expiry is emitted exactly once per activation: TICK_END emits it once for a record whose
lifetime has passed, and that record is then inactive; for any other record it emits none; and an
inactive record stays inactive through every transaction but a SET or SETM_ITEM (R154). -/
def Obligations.ExpiryEmittedOncePerActivation : Prop :=
  (∀ (s : State) (i : Fin 16), s.fault = false → (s.phase = .rx ∨ s.phase = .cmd) →
    ∃ t new, exec .tickEnd s = .next t ∧ t.tel = s.tel ++ new
      ∧ (s.ov[i].active = true → s.cfg.ovrLifeMs < s.now - s.ov[i].setAt →
        new.countP (fun e => match e with | .overrideExpired n _ => n == i.val + 1 | _ => false) = 1
          ∧ t.ov[i].active = false)
      ∧ (¬ (s.ov[i].active = true ∧ s.cfg.ovrLifeMs < s.now - s.ov[i].setAt) →
        new.countP (fun e => match e with | .overrideExpired n _ => n == i.val + 1 | _ => false) = 0))
  ∧ ∀ (w : PortWords) (s t : State) (i : Fin 16), transact w s = .next t →
    s.ov[i].active = false → t.ov[i].active = true →
    ∃ v : Chan, decode w = .ok (.set (i.val + 1) v.toNat)
      ∨ decode w = .ok (.setmItem (i.val + 1) v.toNat)

/-- `out_ch` changes only at TICK_END: a command's effect on the output appears there and not before
(R23, R153, R225). -/
def Obligations.OutputChangesOnlyAtTickEnd : Prop :=
  ∀ (w : PortWords) (s t : State), transact w s = .next t → t.outCh ≠ s.outCh →
    decode w = .ok .tickEnd

/-- The time of the last Disconnected notification is written exactly when that status is emitted,
which only TICK_END does, and never when the Connected status is (R33). -/
def Obligations.NotificationTimeWrittenWithStatus : Prop :=
  ∀ (w : PortWords) (s t : State), transact w s = .next t →
    (t.lastDiscNotify = s.lastDiscNotify ∧ ∀ n, t.tel ≠ s.tel ++ n ++ [.status s.now false])
    ∨ (decode w = .ok .tickEnd ∧ t.lastDiscNotify = s.now ∧ t.connected = false
        ∧ ∃ n, t.tel = s.tel ++ n ++ [.status s.now false])

/-- The first status of a block that has only idle ticks (R134), whichever way INIT_CONNECTED stands:
none comes until the time passes 100 ms (Connected at reset) or 5000 ms (Disconnected), and
the first tick past it says Disconnected. -/
def Obligations.FirstStatusAfterReset : Prop :=
  ∀ (b : Bool) (ts : List Time) (t : Time),
    let limit : Nat := if b then 100 else 5000
    (∀ x ∈ ts, x.toNat ≤ limit) → limit < t.toNat →
    ∃ u v,
      execAll (ts.flatMap idleTick) (State.resetWith { Config.stated with initConnected := b })
        = .next u
      ∧ u.tel = []
      ∧ execAll (idleTick t) u = .next v ∧ v.tel = [.status t false] ∧ v.connected = false

/-- The block transmits only at a TICK_END whose tick completed a frame; what it sends is that tick's
output, and it is then Connected (R175). The premise is an invariant of its own (`StepKeepsFrameInvariants`). -/
def Obligations.TransmitsOnlyWithCompletedFrame : Prop :=
  ∀ (w : PortWords) (s t : State), s.CompletedThisTick → transact w s = .next t → t.ftx ≠ s.ftx →
    decode w = .ok .tickEnd ∧ s.frameDone = true ∧ t.connected = true
      ∧ t.ftx = s.ftx ++ [encodeFrame t.cfg t.outCh]

/-- Under the host's duty on time, an override set at true time `t0` lives through every tick up to
`t0 + 2000` and expires, with its event, at the first tick after it, whatever the 32-bit clock does.
The ticks are any of R78's grammar, with frame bytes and with commands, as long as no command writes
the record itself (R206, R232; batches being shorter than the count's range). -/
def Obligations.OverrideExpiresInTrueTime : Prop :=
  ∀ (s : State) (i : Fin 16) (v : Chan) (t0 : Nat) (ks : List TimedTick) (k1 : TimedTick),
    s.fault = false → s.phase = .idle → s.cfg.ovrLifeMs = 2000 →
    s.ov[i] = { active := true, value := v, setAt := tickTime t0 } →
    TimeDuty (t0 :: ks.map (fun k => k.time) ++ [k1.time]) →
    (∀ k ∈ ks, k.time ≤ t0 + 2000) → t0 + 2000 < k1.time →
    (∀ k ∈ ks ++ [k1], ∀ c ∈ k.commands, c.Spares (i.val + 1) ∧ c.Short) →
    ∃ u w, execAll (ks.flatMap TimedTick.instrs) s = .next u
      ∧ u.ov[i] = s.ov[i] ∧ (ks ≠ [] → u.outCh[i] = v)
      ∧ execAll k1.instrs u = .next w
      ∧ w.ov[i].active = false ∧ w.outCh[i] = w.inCh[i]
      ∧ Event.overrideExpired (i.val + 1) (tickTime k1.time) ∈ w.tel.drop u.tel.length

/-! ### Invariants and whole-machine rules -/

/-- R41's invariants hold at reset, for every value of the build parameters, and so do the two that the
codec's and the transmitter's rules rest on (R102, R175). -/
def Obligations.InvariantsAtReset : Prop :=
  ∀ c : Config, (State.resetWith c).Inv ∧ (State.resetWith c).HeaderStored
    ∧ (State.resetWith c).CompletedThisTick

/-- Every step keeps the invariants of R41: `idx` at rest in 0..24, and the fault flag set exactly when
one of the four codes is held. -/
def Obligations.StepKeepsInvariants : Prop :=
  ∀ s t : State, s.Inv → step s = .next t → t.Inv

/-- Every step keeps: while bytes of a frame are stored the first is the header (R102, R122), and in an
open tick with a completed frame the block is Connected with that tick's time (R133, R175). -/
def Obligations.StepKeepsFrameInvariants : Prop :=
  ∀ s t : State, step s = .next t →
    (s.HeaderStored → t.HeaderStored) ∧ (s.CompletedThisTick → t.CompletedThisTick)

/-- Every state reachable from reset, whatever the host does, satisfies the three invariants of R41, and
a faulted state can have any phase (R41). -/
def Obligations.ReachableStatesAreSound : Prop :=
  (∀ (c : Config) (hs : List HostAction) (n : Nat) (t : State),
    runFor n { State.resetWith c with host := hs } = .next t →
    t.idx.toNat ≤ 24 ∧ (∀ i : Fin 16, t.ov[i].value.toNat ≤ 2047)
      ∧ (t.fault = true ↔ t.faultCode ≠ 0)
      ∧ (t.faultCode ≠ 0 → t.faultCode = 1 ∨ t.faultCode = 2 ∨ t.faultCode = 3 ∨ t.faultCode = 4))
  ∧ ∀ (c : Config) (p : Phase), ∃ (hs : List HostAction) (n : Nat) (t : State),
    runFor n { State.resetWith c with host := hs } = .next t ∧ t.fault = true ∧ t.phase = p

/-- A transaction changes the queues only by appending to them (R58). -/
def Obligations.TransactionsOnlyAppend : Prop :=
  ∀ (w : PortWords) (s t : State), transact w s = .next t → s.tel <+: t.tel ∧ s.ftx <+: t.ftx

/-- Two states that look alike show the same `tel`, `ftx` and fault status after every number of steps:
stale buffer bytes, the contents of inactive records, and the elements that are written before they
are read, are never observable (R26, R31, R221, R40). -/
def Obligations.HiddenStateIsUnobservable : Prop :=
  ∀ (n : Nat) (s t : State), s.LooksLike t →
    ∃ s' t', runFor n s = .next s' ∧ runFor n t = .next t' ∧ s'.observe = t'.observe

/-- A state that agrees with the reset state in the elements R221 calls observable looks like it,
whatever the other elements hold (R221). -/
def Obligations.UnobservableResetValues : Prop :=
  ∀ (c : Config) (hs : List HostAction) (inCh outCh : Channels) (fl fs fd : Bool) (buf : Frame)
    (now : Time) (count : Word) (vals : Vector (Chan × Time) 16),
    State.LooksLike { State.resetWith c with host := hs }
      { State.resetWith c with
        host := hs
        inCh := inCh
        outCh := outCh
        frameLost := fl
        failsafe := fs
        buf := buf
        ov := Vector.ofFn fun i : Fin 16 =>
          { active := false, value := vals[i].1, setAt := vals[i].2 }
        now := now
        frameDone := fd
        batchCount := count }

/-- Every stream of R78's grammar runs without a port fault and leaves the block between ticks (batches
being shorter than the count's range) (R78, R81). -/
def Obligations.GrammarStreamsRunWithoutFault : Prop :=
  ∀ (ticks : List GrammarTick) (s : State), s.fault = false → s.phase = .idle →
    (∀ k ∈ ticks, ∀ items, GrammarCommand.batch items ∈ k.commands → items.length < 2 ^ 32) →
    ∃ t, execAll (streamInstrs ticks) s = .next t ∧ t.fault = false ∧ t.phase = .idle

/-- And no other stream does: transactions that take the block from between ticks to between ticks
without a port fault are a stream of R78's grammar (R78, R81). -/
def Obligations.FaultFreeStreamsAreGrammatical : Prop :=
  ∀ (is : List Instr) (s t : State), s.fault = false → s.phase = .idle →
    execAll is s = .next t → t.fault = false → t.phase = .idle →
    ∃ ticks : List GrammarTick, is = streamInstrs ticks
end

