-- ==== Sys2Proof/Laws/Codec.lean ====
section
/-! SUPPORT. What Decode and Encode do, bit by bit (40_codec.md rules R101, R102, R106). -/

namespace Sys2Proof.Machine

/-- Bit `j` of a decoded channel is its payload bit. -/
theorem getLsbD_decodeChannel (F : Frame) (i : Fin 16) (j : Nat) (hj : j < 11) :
    (decodeChannel F i).getLsbD j = pbit F (11 * i.val + j) := by
  simp [decodeChannel, hj]

/-- Value bit `j` of channel `i` stands at payload bit `11*i + j` (R52). -/
theorem payloadBit_channel (ch : Channels) (i : Fin 16) (j : Nat) (hj : j < 11) :
    payloadBit ch (11 * i.val + j) = ch[i].getLsbD j := by
  have h1 : (11 * i.val + j) / 11 = i.val := by omega
  have h2 : (11 * i.val + j) % 11 = j := by omega
  simp [payloadBit, h1, h2]

/-- Bit `t` of a packed byte. -/
theorem getLsbD_payloadByte (ch : Channels) (m t : Nat) (ht : t < 8) :
    (payloadByte ch m).getLsbD t = payloadBit ch (8 * m + t) := by
  simp [payloadByte, ht]

theorem encodeFrame_header (cfg : Config) (ch : Channels) : (encodeFrame cfg ch)[0] = cfg.header := by
  simp [encodeFrame]

theorem encodeFrame_footer (cfg : Config) (ch : Channels) : (encodeFrame cfg ch)[24] = cfg.footer := by
  simp [encodeFrame]

theorem encodeFrame_flags (cfg : Config) (ch : Channels) : (encodeFrame cfg ch)[23] = originatedFlags := by
  simp [encodeFrame]

theorem encodeFrame_payload (cfg : Config) (ch : Channels) (m : Nat) (hm : m < 22) :
    (encodeFrame cfg ch)[1 + m] = payloadByte ch m := by
  have h1 : 1 + m ≠ 24 := by omega
  have h2 : 1 + m ≠ 23 := by omega
  simp [encodeFrame, h1, h2]

/-- The payload bits of an encoded frame are those of the channels. -/
theorem pbit_encodeFrame (cfg : Config) (ch : Channels) (k : Nat) (hk : k < 176) :
    pbit (encodeFrame cfg ch) k = payloadBit ch k := by
  have hm : k / 8 < 22 := by omega
  have h : (encodeFrame cfg ch).toList.getD (1 + k / 8) 0 = payloadByte ch (k / 8) := by
    rw [List.getD_eq_getElem _ _ (by simp; omega), Vector.getElem_toList]
    exact encodeFrame_payload cfg ch (k / 8) hm
  rw [pbit, h, getLsbD_payloadByte _ _ _ (by omega)]
  rw [Nat.div_add_mod]

/-- Payload bit access is access to a byte of the frame. -/
theorem pbit_eq (F : Frame) (m t : Nat) (hm : m < 24) (ht : t < 8) :
    pbit F (8 * m + t) = F[1 + m].getLsbD t := by
  have h1 : (8 * m + t) / 8 = m := by omega
  have h2 : (8 * m + t) % 8 = t := by omega
  simp [pbit, h1, h2, List.getD_eq_getElem?_getD, show 1 + m < 25 by omega]

end Sys2Proof.Machine
end

