-- ==== Sys2Proof/Laws/Decode.lean ====
section
/-! SUPPORT. The fields of the packed words (30_encoding.md rules R70, R71). -/

namespace Sys2Proof

@[simp] theorem packW0_op (r : BitVec 16) (b o : Byte) : (packW0 r b o).extractLsb' 0 8 = o := by
  ext k hk
  simp [packW0, show k < 16 by omega, show k < 32 by omega, hk]

@[simp] theorem packW0_b (r : BitVec 16) (b o : Byte) : (packW0 r b o).extractLsb' 8 8 = b := by
  ext k hk
  simp [packW0, show 8 + k < 16 by omega, show 8 + k < 32 by omega, hk]

@[simp] theorem packW0_rsv (r : BitVec 16) (b o : Byte) :
    (packW0 r b o).extractLsb' 16 16 = r := by
  ext k hk
  have h1 : ¬ 16 + k < 8 := by omega
  have h2 : 16 + k - 8 = k + 8 := by omega
  have h3 : o.getLsbD (16 + k) = false := BitVec.getLsbD_of_ge _ _ (by omega)
  simp [packW0, h1, h2, h3, show 16 + k < 32 by omega, hk]

/-- A first word is made of its three fields. -/
theorem packW0_fields (w : Word) :
    packW0 (w.extractLsb' 16 16) (w.extractLsb' 8 8) (w.extractLsb' 0 8) = w := by
  ext k hk
  rw [← BitVec.getLsbD_eq_getElem, ← BitVec.getLsbD_eq_getElem]
  rcases Nat.lt_or_ge k 8 with h | h
  · simp [packW0, h, hk, show k < 16 by omega]
  · rcases Nat.lt_or_ge k 16 with h' | h'
    · simp [packW0, hk, h', show ¬ k < 8 by omega, show k - 8 < 8 by omega,
        show 8 + (k - 8) = k by omega]
    · simp [packW0, hk, show ¬ k < 8 by omega, show ¬ k < 16 by omega, show ¬ k - 8 < 8 by omega,
        show k - 16 < 16 by omega, show 16 + (k - 16) = k by omega]

/-- A word is made of its four bytes (R54). -/
theorem wordOfBytes_bytes (w : Word) :
    wordOfBytes (w.extractLsb' 0 8) (w.extractLsb' 8 8) (w.extractLsb' 16 8) (w.extractLsb' 24 8)
      = w := by
  ext k hk
  rw [← BitVec.getLsbD_eq_getElem, ← BitVec.getLsbD_eq_getElem]
  rcases Nat.lt_or_ge k 8 with h | h
  · simp [wordOfBytes, h, hk, show k < 16 by omega, show k < 24 by omega]
  · rcases Nat.lt_or_ge k 16 with h' | h'
    · simp [wordOfBytes, hk, h', show ¬ k < 8 by omega, show k - 8 < 8 by omega,
        show k < 24 by omega, show 8 + (k - 8) = k by omega]
    · rcases Nat.lt_or_ge k 24 with h'' | h''
      · simp [wordOfBytes, hk, h'', show ¬ k < 8 by omega, show ¬ k < 16 by omega,
          show ¬ k - 8 < 8 by omega, show k - 16 < 8 by omega, show 16 + (k - 16) = k by omega]
      · simp [wordOfBytes, hk, show ¬ k < 8 by omega, show ¬ k < 16 by omega,
          show ¬ k < 24 by omega, show ¬ k - 8 < 8 by omega, show ¬ k - 16 < 8 by omega,
          show k - 24 < 8 by omega, show 24 + (k - 24) = k by omega]

/-- Sign extension undoes the packing of an `i32` (R71). -/
theorem toInt_ofInt_of_isI32 {n : Int} (h : isI32 n = true) : (BitVec.ofInt 32 n).toInt = n := by
  simp only [isI32, decide_eq_true_eq] at h
  rw [BitVec.toInt_ofInt]
  exact Int.bmod_eq_of_le (by omega) (by omega)

/-- Every word is an `i32` (R71). -/
theorem isI32_toInt (w : Word) : isI32 w.toInt = true := by
  have h1 := BitVec.toInt_lt (x := w)
  have h2 := BitVec.le_toInt (x := w)
  simp only [isI32, decide_eq_true_eq]
  omega

/-- A code that names an opcode is that opcode's (R72). -/
theorem code_of_ofCode {c : Byte} {op : Op} (h : Op.ofCode c = some op) : op.code = c := by
  unfold Op.ofCode at h
  split at h <;> cases h <;> (apply BitVec.eq_of_toNat_eq; symm; assumption)

@[simp] theorem ofCode_code (op : Op) : Op.ofCode op.code = some op := by
  cases op <;> rfl

end Sys2Proof
end

