-- ==== Sys2Proof/Laws/State.lean ====
section
/-! SUPPORT. What each named update of the state leaves in each field. -/

namespace Sys2Proof.Machine

section emitTelFields
variable (s : State) (e : Event)
@[simp] theorem State.emitTel_inCh : (s.emitTel e).inCh = s.inCh := rfl
@[simp] theorem State.emitTel_outCh : (s.emitTel e).outCh = s.outCh := rfl
@[simp] theorem State.emitTel_frameLost : (s.emitTel e).frameLost = s.frameLost := rfl
@[simp] theorem State.emitTel_failsafe : (s.emitTel e).failsafe = s.failsafe := rfl
@[simp] theorem State.emitTel_ov : (s.emitTel e).ov = s.ov := rfl
@[simp] theorem State.emitTel_buf : (s.emitTel e).buf = s.buf := rfl
@[simp] theorem State.emitTel_idx : (s.emitTel e).idx = s.idx := rfl
@[simp] theorem State.emitTel_connected : (s.emitTel e).connected = s.connected := rfl
@[simp] theorem State.emitTel_lastFrameTime : (s.emitTel e).lastFrameTime = s.lastFrameTime := rfl
@[simp] theorem State.emitTel_lastDiscNotify : (s.emitTel e).lastDiscNotify = s.lastDiscNotify := rfl
@[simp] theorem State.emitTel_phase : (s.emitTel e).phase = s.phase := rfl
@[simp] theorem State.emitTel_now : (s.emitTel e).now = s.now := rfl
@[simp] theorem State.emitTel_frameDone : (s.emitTel e).frameDone = s.frameDone := rfl
@[simp] theorem State.emitTel_batchCount : (s.emitTel e).batchCount = s.batchCount := rfl
@[simp] theorem State.emitTel_fault : (s.emitTel e).fault = s.fault := rfl
@[simp] theorem State.emitTel_faultCode : (s.emitTel e).faultCode = s.faultCode := rfl
@[simp] theorem State.emitTel_tel : (s.emitTel e).tel = s.tel ++ [e] := rfl
@[simp] theorem State.emitTel_ftx : (s.emitTel e).ftx = s.ftx := rfl
@[simp] theorem State.emitTel_cfg : (s.emitTel e).cfg = s.cfg := rfl
@[simp] theorem State.emitTel_host : (s.emitTel e).host = s.host := rfl
end emitTelFields

section emitFtxFields
variable (s : State) (F : Frame)
@[simp] theorem State.emitFtx_inCh : (s.emitFtx F).inCh = s.inCh := rfl
@[simp] theorem State.emitFtx_outCh : (s.emitFtx F).outCh = s.outCh := rfl
@[simp] theorem State.emitFtx_frameLost : (s.emitFtx F).frameLost = s.frameLost := rfl
@[simp] theorem State.emitFtx_failsafe : (s.emitFtx F).failsafe = s.failsafe := rfl
@[simp] theorem State.emitFtx_ov : (s.emitFtx F).ov = s.ov := rfl
@[simp] theorem State.emitFtx_buf : (s.emitFtx F).buf = s.buf := rfl
@[simp] theorem State.emitFtx_idx : (s.emitFtx F).idx = s.idx := rfl
@[simp] theorem State.emitFtx_connected : (s.emitFtx F).connected = s.connected := rfl
@[simp] theorem State.emitFtx_lastFrameTime : (s.emitFtx F).lastFrameTime = s.lastFrameTime := rfl
@[simp] theorem State.emitFtx_lastDiscNotify : (s.emitFtx F).lastDiscNotify = s.lastDiscNotify := rfl
@[simp] theorem State.emitFtx_phase : (s.emitFtx F).phase = s.phase := rfl
@[simp] theorem State.emitFtx_now : (s.emitFtx F).now = s.now := rfl
@[simp] theorem State.emitFtx_frameDone : (s.emitFtx F).frameDone = s.frameDone := rfl
@[simp] theorem State.emitFtx_batchCount : (s.emitFtx F).batchCount = s.batchCount := rfl
@[simp] theorem State.emitFtx_fault : (s.emitFtx F).fault = s.fault := rfl
@[simp] theorem State.emitFtx_faultCode : (s.emitFtx F).faultCode = s.faultCode := rfl
@[simp] theorem State.emitFtx_tel : (s.emitFtx F).tel = s.tel := rfl
@[simp] theorem State.emitFtx_ftx : (s.emitFtx F).ftx = s.ftx ++ [F] := rfl
@[simp] theorem State.emitFtx_cfg : (s.emitFtx F).cfg = s.cfg := rfl
@[simp] theorem State.emitFtx_host : (s.emitFtx F).host = s.host := rfl
end emitFtxFields

section setPhaseFields
variable (s : State) (p : Phase)
@[simp] theorem State.setPhase_inCh : (s.setPhase p).inCh = s.inCh := rfl
@[simp] theorem State.setPhase_outCh : (s.setPhase p).outCh = s.outCh := rfl
@[simp] theorem State.setPhase_frameLost : (s.setPhase p).frameLost = s.frameLost := rfl
@[simp] theorem State.setPhase_failsafe : (s.setPhase p).failsafe = s.failsafe := rfl
@[simp] theorem State.setPhase_ov : (s.setPhase p).ov = s.ov := rfl
@[simp] theorem State.setPhase_buf : (s.setPhase p).buf = s.buf := rfl
@[simp] theorem State.setPhase_idx : (s.setPhase p).idx = s.idx := rfl
@[simp] theorem State.setPhase_connected : (s.setPhase p).connected = s.connected := rfl
@[simp] theorem State.setPhase_lastFrameTime : (s.setPhase p).lastFrameTime = s.lastFrameTime := rfl
@[simp] theorem State.setPhase_lastDiscNotify : (s.setPhase p).lastDiscNotify = s.lastDiscNotify := rfl
@[simp] theorem State.setPhase_phase : (s.setPhase p).phase = p := rfl
@[simp] theorem State.setPhase_now : (s.setPhase p).now = s.now := rfl
@[simp] theorem State.setPhase_frameDone : (s.setPhase p).frameDone = s.frameDone := rfl
@[simp] theorem State.setPhase_batchCount : (s.setPhase p).batchCount = s.batchCount := rfl
@[simp] theorem State.setPhase_fault : (s.setPhase p).fault = s.fault := rfl
@[simp] theorem State.setPhase_faultCode : (s.setPhase p).faultCode = s.faultCode := rfl
@[simp] theorem State.setPhase_tel : (s.setPhase p).tel = s.tel := rfl
@[simp] theorem State.setPhase_ftx : (s.setPhase p).ftx = s.ftx := rfl
@[simp] theorem State.setPhase_cfg : (s.setPhase p).cfg = s.cfg := rfl
@[simp] theorem State.setPhase_host : (s.setPhase p).host = s.host := rfl
end setPhaseFields

section setRecordFields
variable (s : State) (i : Fin 16) (r : OvRecord)
@[simp] theorem State.setRecord_inCh : (s.setRecord i r).inCh = s.inCh := rfl
@[simp] theorem State.setRecord_outCh : (s.setRecord i r).outCh = s.outCh := rfl
@[simp] theorem State.setRecord_frameLost : (s.setRecord i r).frameLost = s.frameLost := rfl
@[simp] theorem State.setRecord_failsafe : (s.setRecord i r).failsafe = s.failsafe := rfl
@[simp] theorem State.setRecord_ov : (s.setRecord i r).ov = s.ov.set i r := rfl
@[simp] theorem State.setRecord_buf : (s.setRecord i r).buf = s.buf := rfl
@[simp] theorem State.setRecord_idx : (s.setRecord i r).idx = s.idx := rfl
@[simp] theorem State.setRecord_connected : (s.setRecord i r).connected = s.connected := rfl
@[simp] theorem State.setRecord_lastFrameTime : (s.setRecord i r).lastFrameTime = s.lastFrameTime := rfl
@[simp] theorem State.setRecord_lastDiscNotify : (s.setRecord i r).lastDiscNotify = s.lastDiscNotify := rfl
@[simp] theorem State.setRecord_phase : (s.setRecord i r).phase = s.phase := rfl
@[simp] theorem State.setRecord_now : (s.setRecord i r).now = s.now := rfl
@[simp] theorem State.setRecord_frameDone : (s.setRecord i r).frameDone = s.frameDone := rfl
@[simp] theorem State.setRecord_batchCount : (s.setRecord i r).batchCount = s.batchCount := rfl
@[simp] theorem State.setRecord_fault : (s.setRecord i r).fault = s.fault := rfl
@[simp] theorem State.setRecord_faultCode : (s.setRecord i r).faultCode = s.faultCode := rfl
@[simp] theorem State.setRecord_tel : (s.setRecord i r).tel = s.tel := rfl
@[simp] theorem State.setRecord_ftx : (s.setRecord i r).ftx = s.ftx := rfl
@[simp] theorem State.setRecord_cfg : (s.setRecord i r).cfg = s.cfg := rfl
@[simp] theorem State.setRecord_host : (s.setRecord i r).host = s.host := rfl
end setRecordFields

section raisePortFaultFields
variable (s : State) (c : PortFaultCode)
@[simp] theorem State.raisePortFault_inCh : (s.raisePortFault c).inCh = s.inCh := rfl
@[simp] theorem State.raisePortFault_outCh : (s.raisePortFault c).outCh = s.outCh := rfl
@[simp] theorem State.raisePortFault_frameLost : (s.raisePortFault c).frameLost = s.frameLost := rfl
@[simp] theorem State.raisePortFault_failsafe : (s.raisePortFault c).failsafe = s.failsafe := rfl
@[simp] theorem State.raisePortFault_ov : (s.raisePortFault c).ov = s.ov := rfl
@[simp] theorem State.raisePortFault_buf : (s.raisePortFault c).buf = s.buf := rfl
@[simp] theorem State.raisePortFault_idx : (s.raisePortFault c).idx = s.idx := rfl
@[simp] theorem State.raisePortFault_connected : (s.raisePortFault c).connected = s.connected := rfl
@[simp] theorem State.raisePortFault_lastFrameTime : (s.raisePortFault c).lastFrameTime = s.lastFrameTime := rfl
@[simp] theorem State.raisePortFault_lastDiscNotify : (s.raisePortFault c).lastDiscNotify = s.lastDiscNotify := rfl
@[simp] theorem State.raisePortFault_phase : (s.raisePortFault c).phase = s.phase := rfl
@[simp] theorem State.raisePortFault_now : (s.raisePortFault c).now = s.now := rfl
@[simp] theorem State.raisePortFault_frameDone : (s.raisePortFault c).frameDone = s.frameDone := rfl
@[simp] theorem State.raisePortFault_batchCount : (s.raisePortFault c).batchCount = s.batchCount := rfl
@[simp] theorem State.raisePortFault_fault : (s.raisePortFault c).fault = true := rfl
@[simp] theorem State.raisePortFault_faultCode : (s.raisePortFault c).faultCode = if s.faultCode = 0 then c.code else s.faultCode := rfl
@[simp] theorem State.raisePortFault_tel : (s.raisePortFault c).tel = s.tel := rfl
@[simp] theorem State.raisePortFault_ftx : (s.raisePortFault c).ftx = s.ftx := rfl
@[simp] theorem State.raisePortFault_cfg : (s.raisePortFault c).cfg = s.cfg := rfl
@[simp] theorem State.raisePortFault_host : (s.raisePortFault c).host = s.host := rfl
end raisePortFaultFields

section presentNextFields
variable (s : State) (t : PortWords)
@[simp] theorem State.presentNext_inCh : (s.presentNext t).inCh = s.inCh := rfl
@[simp] theorem State.presentNext_outCh : (s.presentNext t).outCh = s.outCh := rfl
@[simp] theorem State.presentNext_frameLost : (s.presentNext t).frameLost = s.frameLost := rfl
@[simp] theorem State.presentNext_failsafe : (s.presentNext t).failsafe = s.failsafe := rfl
@[simp] theorem State.presentNext_ov : (s.presentNext t).ov = s.ov := rfl
@[simp] theorem State.presentNext_buf : (s.presentNext t).buf = s.buf := rfl
@[simp] theorem State.presentNext_idx : (s.presentNext t).idx = s.idx := rfl
@[simp] theorem State.presentNext_connected : (s.presentNext t).connected = s.connected := rfl
@[simp] theorem State.presentNext_lastFrameTime : (s.presentNext t).lastFrameTime = s.lastFrameTime := rfl
@[simp] theorem State.presentNext_lastDiscNotify : (s.presentNext t).lastDiscNotify = s.lastDiscNotify := rfl
@[simp] theorem State.presentNext_phase : (s.presentNext t).phase = s.phase := rfl
@[simp] theorem State.presentNext_now : (s.presentNext t).now = s.now := rfl
@[simp] theorem State.presentNext_frameDone : (s.presentNext t).frameDone = s.frameDone := rfl
@[simp] theorem State.presentNext_batchCount : (s.presentNext t).batchCount = s.batchCount := rfl
@[simp] theorem State.presentNext_fault : (s.presentNext t).fault = s.fault := rfl
@[simp] theorem State.presentNext_faultCode : (s.presentNext t).faultCode = s.faultCode := rfl
@[simp] theorem State.presentNext_tel : (s.presentNext t).tel = s.tel := rfl
@[simp] theorem State.presentNext_ftx : (s.presentNext t).ftx = s.ftx := rfl
@[simp] theorem State.presentNext_cfg : (s.presentNext t).cfg = s.cfg := rfl
@[simp] theorem State.presentNext_host : (s.presentNext t).host = HostAction.transact t :: s.host := rfl
end presentNextFields

end Sys2Proof.Machine
end

