-- ==== Sys2Proof/Laws/Ops.lean ====
section
/-! SUPPORT. What the shared operations can do: the checks every transaction passes, the table's
write, and one step. -/

namespace Sys2Proof.Machine

/-! ### The checks of R77 -/

theorem guarded_of_fault {op : Op} {rule : State → State} {s : State} (h : s.fault = true) :
    guarded op rule s = .next s := by
  simp [guarded, h]

theorem guarded_of_legal {op : Op} {rule : State → State} {s : State} (hf : s.fault = false)
    {p : Phase} (hp : phaseAfter op s.phase = some p) : guarded op rule s = .next (rule s) := by
  simp [guarded, hf, hp]

theorem guarded_of_outOfPhase {op : Op} {rule : State → State} {s : State} (hf : s.fault = false)
    (hp : phaseAfter op s.phase = none) :
    guarded op rule s = .next (s.raisePortFault .sequence) := by
  simp [guarded, hf, hp]

/-- Everything the checks can do. -/
theorem guarded_cases {op : Op} {rule : State → State} {s t : State}
    (h : guarded op rule s = .next t) :
    (s.fault = true ∧ t = s)
      ∨ (s.fault = false ∧ phaseAfter op s.phase = none ∧ t = s.raisePortFault .sequence)
      ∨ (s.fault = false ∧ (∃ p, phaseAfter op s.phase = some p) ∧ t = rule s) := by
  unfold guarded at h
  split at h
  · cases h; exact .inl ⟨by assumption, rfl⟩
  · split at h <;> cases h
    · exact .inr (.inr ⟨by simp_all, Option.isSome_iff_exists.1 (by assumption), rfl⟩)
    · exact .inr (.inl ⟨by simp_all, by simp_all, rfl⟩)

/-- The checks always answer a next state. -/
theorem guarded_next (op : Op) (rule : State → State) (s : State) :
    ∃ t, guarded op rule s = .next t := by
  unfold guarded
  split
  · exact ⟨_, rfl⟩
  · split <;> exact ⟨_, rfl⟩

/-! ### The meanings, as the rule each transaction runs -/

/-- The rule that `exec` runs once the checks have passed. -/
def ruleOf : Instr → State → State
  | .tickBegin now => fun s => State.setPhase { s with now := now, frameDone := false } .rx
  | .rxByte b => fun s => (s.syncByte b).setPhase .rx
  | .set ch val => State.ruleSet ch val
  | .setmBegin => fun s => State.setPhase { s with batchCount := 0 } .batch
  | .setmItem ch val => State.ruleSetmItem ch val
  | .setmEnd => fun s => (s.emitTel (.channelsSet s.batchCount s.now)).setPhase .cmd
  | .clear ch => State.ruleClear ch
  | .clearAll => fun s => (s.deactivateAll.emitTel (.allCleared s.now)).setPhase .cmd
  | .status => fun s => (s.emitTel (.overrideStatus s.now s.statusList)).setPhase .cmd
  | .tickEnd => fun s => s.applyOverrides.telemetry.watchdog.setPhase .idle

theorem exec_eq_guarded (i : Instr) (s : State) : exec i s = guarded i.op (ruleOf i) s := by
  cases i <;> rfl

/-- Everything a transaction can do (R77). -/
theorem exec_cases {i : Instr} {s t : State} (h : exec i s = .next t) :
    (s.fault = true ∧ t = s)
      ∨ (s.fault = false ∧ phaseAfter i.op s.phase = none ∧ t = s.raisePortFault .sequence)
      ∨ (s.fault = false ∧ (∃ p, phaseAfter i.op s.phase = some p) ∧ t = ruleOf i s) :=
  guarded_cases (exec_eq_guarded i s ▸ h)

theorem exec_next (i : Instr) (s : State) : ∃ t, exec i s = .next t := by
  rw [exec_eq_guarded]; exact guarded_next ..

theorem exec_of_legal {i : Instr} {s : State} (hf : s.fault = false) {p : Phase}
    (hp : phaseAfter i.op s.phase = some p) : exec i s = .next (ruleOf i s) := by
  rw [exec_eq_guarded]; exact guarded_of_legal hf hp

theorem exec_of_fault {i : Instr} {s : State} (h : s.fault = true) : exec i s = .next s := by
  rw [exec_eq_guarded]; exact guarded_of_fault h

/-! ### The port and the step -/

theorem transact_of_fault {t : PortWords} {s : State} (h : s.fault = true) :
    transact t s = .next s := by
  simp [transact, h]

theorem transact_of_decode {t : PortWords} {i : Instr} (s : State) (h : decode t = .ok i) :
    transact t s = exec i s := by
  unfold transact
  split
  · rename_i hf; exact (exec_of_fault hf).symm
  · rw [h]

theorem transact_of_error {t : PortWords} {e : DecodeError} {s : State} (hf : s.fault = false)
    (h : decode t = .error e) : transact t s = .next (s.raisePortFault (portFaultOf e)) := by
  simp [transact, hf, h]

/-- Everything a presented transaction can do (R77). -/
theorem transact_cases {t : PortWords} {s u : State} (h : transact t s = .next u) :
    (s.fault = true ∧ u = s)
      ∨ (s.fault = false ∧ ∃ c, u = s.raisePortFault c)
      ∨ (s.fault = false ∧ ∃ i p, decode t = .ok i ∧ phaseAfter i.op s.phase = some p
          ∧ u = ruleOf i s) := by
  cases hf : s.fault
  · cases hd : decode t with
    | error e =>
      rw [transact_of_error hf hd] at h
      cases h
      exact .inr (.inl ⟨rfl, _, rfl⟩)
    | ok i =>
      rw [transact_of_decode s hd] at h
      obtain ⟨h1, -⟩ | ⟨-, -, h3⟩ | ⟨-, ⟨p, hp⟩, h3⟩ := exec_cases h
      · simp [hf] at h1
      · exact .inr (.inl ⟨rfl, _, h3⟩)
      · exact .inr (.inr ⟨rfl, i, p, rfl, hp, h3⟩)
  · rw [transact_of_fault hf] at h
    cases h
    exact .inl ⟨rfl, rfl⟩

/-- Everything one step can do (R5, R77, R210). -/
theorem step_cases {s t : State} (h : step s = .next t) :
    (s.host = [] ∧ t = s)
      ∨ ∃ a rest, s.host = a :: rest ∧ perform a { s with host := rest } = .next t := by
  unfold step takeAction at h
  split at h
  · cases h; exact .inl ⟨by assumption, rfl⟩
  · exact .inr ⟨_, _, by assumption, h⟩

theorem step_of_host {s : State} {a : HostAction} {rest : List HostAction} (h : s.host = a :: rest) :
    step s = perform a { s with host := rest } := by
  simp [step, takeAction, h]

/-- The host sees the decoder's answer, and the step runs the presented words. -/
theorem step_withFetchWord (s : State) (nbits w : Nat) :
    step (s.withFetchWord nbits w) = transact (tableWords nbits w) s := rfl

end Sys2Proof.Machine
end

