-- ==== Sys2Proof/Laws/Override.lean ====
section
/-! SUPPORT. What the loops of the override table do once they have run: CLEAR_ALL's, and Apply's
(42_override.md rules R148, R150). -/

namespace Sys2Proof.Machine

@[simp] theorem chanIndex_chanNumber (i : Fin 16) : chanIndex (chanNumber i : Int) = i := by
  apply Fin.ext
  simp only [chanIndex, chanNumber, Fin.val_ofNat]
  omega

theorem validCh_iff (n : Int) : validCh n = true ↔ ∃ i : Fin 16, n = (chanNumber i : Int) := by
  simp only [validCh, decide_eq_true_eq, chanNumber]
  constructor
  · intro h
    exact ⟨⟨n.toNat - 1, by omega⟩, by simp only; omega⟩
  · rintro ⟨i, rfl⟩
    omega

theorem validVal_iff (v : Int) : validVal v = true ↔ ∃ x : Chan, v = (x.toNat : Int) := by
  simp only [validVal, decide_eq_true_eq]
  constructor
  · intro h
    exact ⟨BitVec.ofNat 11 v.toNat, by simp only [BitVec.toNat_ofNat]; omega⟩
  · rintro ⟨x, rfl⟩
    have := x.isLt
    omega

@[simp] theorem truncChan_toNat (x : Chan) : truncChan (x.toNat : Int) = x := by
  simp [truncChan]

/-- A fold that deactivates the records of a list leaves every other element of the state alone. -/
theorem foldl_deactivate (l : List (Fin 16)) (s : State) :
    l.foldl State.deactivate s
      = { s with ov := Vector.ofFn fun i =>
            if i ∈ l then { s.ov[i] with active := false } else s.ov[i] } := by
  induction l generalizing s with
  | nil =>
    simp
  | cons a l ih =>
    rw [List.foldl_cons, ih]
    simp only [State.deactivate, State.setRecord]
    congr 1
    ext1 k hk
    simp only [Vector.getElem_ofFn, List.mem_cons, Fin.getElem_fin, Vector.getElem_set, Fin.ext_iff]
    by_cases hka : k = a.val
    · subst hka; simp
    · have : ¬ a.val = k := fun h => hka h.symm
      simp [this, hka]

/-- CLEAR_ALL's loop (R148). -/
theorem deactivateAll_eq (s : State) :
    s.deactivateAll
      = { s with ov := Vector.ofFn fun i : Fin 16 => { s.ov[i] with active := false } } := by
  rw [State.deactivateAll, foldl_deactivate]
  simp [indices]

/-- A record once Apply has looked at it: inactive if its lifetime has passed (R150). -/
def settledRecord (s : State) (i : Fin 16) : OvRecord :=
  { s.ov[i] with active := s.ov[i].active && !s.expired i }

/-- The output of channel `i` once Apply has looked at it (R150, R152). -/
def settledOut (s : State) (i : Fin 16) : Chan :=
  if (settledRecord s i).active then s.ov[i].value else s.inCh[i]

/-- The expiry events of Apply, ascending by channel (R150). -/
def expiryEvents (s : State) (l : List (Fin 16)) : List Event :=
  (l.filter s.expired).map fun i => .overrideExpired (chanNumber i) s.now

/-- One iteration of Apply's loop (R150). -/
theorem applyAt_eq (s : State) (i : Fin 16) :
    (s.expireAt i).muxAt i
      = { s with
          ov := s.ov.set i (settledRecord s i)
          outCh := s.outCh.set i (settledOut s i)
          tel := s.tel ++ expiryEvents s [i] } := by
  by_cases h : s.expired i = true
  · simp [State.expireAt, State.muxAt, State.selected, State.deactivate, State.emitTel,
      State.setRecord, settledRecord, settledOut, expiryEvents, h]
  · have hrec : settledRecord s i = s.ov[i] := by simp [settledRecord, h]
    simp [State.expireAt, State.muxAt, State.selected, settledOut, hrec, expiryEvents, h]

/-- Apply's view of a record depends on nothing that its loop writes elsewhere. -/
theorem settled_congr {s t : State} {i : Fin 16} (hov : t.ov[i] = s.ov[i]) (hin : t.inCh = s.inCh)
    (hnow : t.now = s.now) (hcfg : t.cfg = s.cfg) :
    t.expired i = s.expired i ∧ settledRecord t i = settledRecord s i
      ∧ settledOut t i = settledOut s i := by
  have he : t.expired i = s.expired i := by simp only [State.expired, hov, hnow, hcfg]
  have hr : settledRecord t i = settledRecord s i := by simp only [settledRecord, he, hov]
  exact ⟨he, hr, by simp only [settledOut, hr, hov, hin]⟩

theorem foldl_applyAt (l : List (Fin 16)) (hl : l.Nodup) (s : State) :
    l.foldl (fun s i => (s.expireAt i).muxAt i) s
      = { s with
          ov := Vector.ofFn fun i => if i ∈ l then settledRecord s i else s.ov[i]
          outCh := Vector.ofFn fun i => if i ∈ l then settledOut s i else s.outCh[i]
          tel := s.tel ++ expiryEvents s l } := by
  induction l generalizing s with
  | nil => simp [expiryEvents]
  | cons a l ih =>
    obtain ⟨ha, hl'⟩ := List.nodup_cons.1 hl
    rw [List.foldl_cons, ih hl', applyAt_eq]
    generalize ht : ({ s with
      ov := s.ov.set a (settledRecord s a)
      outCh := s.outCh.set a (settledOut s a)
      tel := s.tel ++ expiryEvents s [a] } : State) = t
    have hset : ∀ i ∈ l, t.expired i = s.expired i ∧ settledRecord t i = settledRecord s i
        ∧ settledOut t i = settledOut s i := by
      intro i hi
      have hne : ¬ a.val = i.val := fun h => ha (Fin.ext h ▸ hi)
      subst ht
      exact settled_congr (by simp [hne]) rfl rfl rfl
    have hov : (Vector.ofFn fun i => if i ∈ l then settledRecord t i else t.ov[i])
        = Vector.ofFn fun i => if i ∈ a :: l then settledRecord s i else s.ov[i] := by
      apply Vector.ext
      intro k hk
      simp only [Vector.getElem_ofFn, List.mem_cons]
      by_cases hkl : (⟨k, hk⟩ : Fin 16) ∈ l
      · simp [hkl, (hset _ hkl).2.1]
      · subst ht
        by_cases hka : (⟨k, hk⟩ : Fin 16) = a
        · subst hka; simp [hkl]
        · have : ¬ a.val = k := fun h => hka (Fin.ext h.symm)
          simp [hkl, hka, this]
    have hout : (Vector.ofFn fun i => if i ∈ l then settledOut t i else t.outCh[i])
        = Vector.ofFn fun i => if i ∈ a :: l then settledOut s i else s.outCh[i] := by
      apply Vector.ext
      intro k hk
      simp only [Vector.getElem_ofFn, List.mem_cons]
      by_cases hkl : (⟨k, hk⟩ : Fin 16) ∈ l
      · simp [hkl, (hset _ hkl).2.2]
      · subst ht
        by_cases hka : (⟨k, hk⟩ : Fin 16) = a
        · subst hka; simp [hkl]
        · have : ¬ a.val = k := fun h => hka (Fin.ext h.symm)
          simp [hkl, hka, this]
    have htel : t.tel ++ expiryEvents t l = s.tel ++ expiryEvents s (a :: l) := by
      have hf : l.filter t.expired = l.filter s.expired :=
        List.filter_congr fun i hi => (hset i hi).1
      have hnow : t.now = s.now := by subst ht; rfl
      have ht' : t.tel = s.tel ++ expiryEvents s [a] := by subst ht; rfl
      rw [ht', List.append_assoc]
      simp only [expiryEvents, hf, hnow, ← List.map_append, ← List.filter_append]
      rfl
    rw [hov, hout, htel]
    subst ht
    rfl

/-- Apply, once its loop has run (R150). -/
theorem applyOverrides_eq (s : State) :
    s.applyOverrides
      = { s with
          ov := Vector.ofFn (settledRecord s)
          outCh := Vector.ofFn (settledOut s)
          tel := s.tel ++ expiryEvents s indices } := by
  rw [State.applyOverrides, foldl_applyAt indices (List.nodup_finRange 16)]
  simp [indices]

end Sys2Proof.Machine
end

