-- ==== Sys2Proof/Laws/PerInstr.lean ====
section
/-! SUPPORT. Statements made for every transaction, one lemma per constructor of Instr. -/

namespace Sys2Proof.Laws.EncodesItsOpcode

/-- The words of a transaction carry its opcode in `OP`, and zero in every field that R72 lists as
zero for it (30_encoding.md rules R72, R75). -/
def Statement (i : Instr) : Prop :=
  (encode i).opField = i.op.code ∧ i.op.zeroFieldsOk (encode i) = true

theorem tickBegin (now : Time) : Statement (.tickBegin now) := by
  simp [Statement, encode, Instr.op, Op.zeroFieldsOk, PortWords.opField, PortWords.bField,
    PortWords.rsvField]

theorem rxByte (b : Byte) : Statement (.rxByte b) := by
  simp [Statement, encode, Instr.op, Op.zeroFieldsOk, PortWords.opField, PortWords.rsvField]

theorem set (ch val : Int) : Statement (.set ch val) := by
  simp [Statement, encode, Instr.op, Op.zeroFieldsOk, PortWords.opField, PortWords.bField,
    PortWords.rsvField]

theorem setmBegin : Statement .setmBegin := by
  simp [Statement, encode, Instr.op, Op.zeroFieldsOk, PortWords.opField, PortWords.bField,
    PortWords.rsvField]

theorem setmItem (ch val : Int) : Statement (.setmItem ch val) := by
  simp [Statement, encode, Instr.op, Op.zeroFieldsOk, PortWords.opField, PortWords.bField,
    PortWords.rsvField]

theorem setmEnd : Statement .setmEnd := by
  simp [Statement, encode, Instr.op, Op.zeroFieldsOk, PortWords.opField, PortWords.bField,
    PortWords.rsvField]

theorem clear (ch : Int) : Statement (.clear ch) := by
  simp [Statement, encode, Instr.op, Op.zeroFieldsOk, PortWords.opField, PortWords.bField,
    PortWords.rsvField]

theorem clearAll : Statement .clearAll := by
  simp [Statement, encode, Instr.op, Op.zeroFieldsOk, PortWords.opField, PortWords.bField,
    PortWords.rsvField]

theorem status : Statement .status := by
  simp [Statement, encode, Instr.op, Op.zeroFieldsOk, PortWords.opField, PortWords.bField,
    PortWords.rsvField]

theorem tickEnd : Statement .tickEnd := by
  simp [Statement, encode, Instr.op, Op.zeroFieldsOk, PortWords.opField, PortWords.bField,
    PortWords.rsvField]

end Sys2Proof.Laws.EncodesItsOpcode
end

