-- ==== Sys2Proof/Laws/Synchronizer.lean ====
section
/-! SUPPORT. What one byte does to the synchronizer, and what the watchdog can do
(41_synchronizer.md rules R121 to R131). -/

namespace Sys2Proof.Machine

/-- FrameComplete, field by field (R124, R127). -/
theorem frameComplete_eq (s : State) :
    s.frameComplete
      = { s with
          inCh := (decodeFrame s.buf).ch
          frameLost := (decodeFrame s.buf).frameLost
          failsafe := (decodeFrame s.buf).failsafe
          frameDone := true
          lastFrameTime := s.now
          connected := true
          tel := if s.connected then s.tel else s.tel ++ [.status s.now true] } := by
  cases h : s.connected <;> simp [State.frameComplete, State.connect, State.emitTel, h]

/-- The state with the byte stored, before the footer test (R123). -/
theorem fillByte_of_lt {s : State} {b : Byte} (h : s.idx.toNat < 24) :
    s.fillByte b = s.storeByte b := by
  have : ¬ s.idx + 1 = 25 := by
    intro hc
    have := congrArg BitVec.toNat hc
    simp at this
    omega
  exact if_neg this

theorem fillByte_of_last {s : State} {b : Byte} (h : s.idx = 24) :
    s.fillByte b = (s.storeByte b).endFrame := by
  simp [State.fillByte, State.storeByte, h]

/-- The watchdog leaves the state alone, notes a disconnection, or repeats one (R131). -/
theorem watchdog_cases (s : State) :
    s.watchdog = s
      ∨ (s.connected = true ∧ s.cfg.discMs < elapsed s.now s.lastFrameTime
          ∧ s.watchdog = State.notifyDisconnected { s with connected := false })
      ∨ (s.connected = false ∧ s.cfg.renotifyMs < elapsed s.now s.lastDiscNotify
          ∧ s.watchdog = s.notifyDisconnected) := by
  unfold State.watchdog
  split
  · split
    · exact .inr (.inl ⟨by assumption, by assumption, rfl⟩)
    · exact .inl rfl
  · split
    · exact .inr (.inr ⟨by simp_all, by assumption, rfl⟩)
    · exact .inl rfl

end Sys2Proof.Machine
end

