-- ==== Sys2Proof/Laws/Tick.lean ====
section
/-! SUPPORT. What telemetry and the watchdog do, each as one update of the state
(43_tick.md rule R174, 41_synchronizer.md rule R131). -/

namespace Sys2Proof.Machine

/-- Telemetry and transmit (R174). -/
theorem telemetry_eq (s : State) :
    s.telemetry
      = { s with
          tel := s.tel ++ (if s.frameDone then [s.channelsEvent] else [])
          ftx := s.ftx ++ (if s.frameDone then [encodeFrame s.cfg s.outCh] else []) } := by
  unfold State.telemetry
  split <;> simp [State.emitTel, State.emitFtx]

/-- The silence on the link has lasted long enough to say Disconnected, or to say it again (R131). -/
def silenceDue (s : State) : Bool :=
  if s.connected then decide (s.cfg.discMs < elapsed s.now s.lastFrameTime)
  else decide (s.cfg.renotifyMs < elapsed s.now s.lastDiscNotify)

/-- The watchdog (R131). -/
theorem watchdog_eq (s : State) :
    s.watchdog
      = { s with
          connected := s.connected && !silenceDue s
          lastDiscNotify := if silenceDue s then s.now else s.lastDiscNotify
          tel := s.tel ++ (if silenceDue s then [.status s.now false] else []) } := by
  cases h : s.connected
  · by_cases h2 : s.cfg.renotifyMs < elapsed s.now s.lastDiscNotify
    · simp [State.watchdog, silenceDue, h, h2, State.notifyDisconnected, State.emitTel]
    · rw [show s.watchdog = s by simp [State.watchdog, h, h2]]
      simp [silenceDue, h, h2]
      exact congrArg (fun c => { s with connected := c }) h
  · by_cases h2 : s.cfg.discMs < elapsed s.now s.lastFrameTime
    · simp [State.watchdog, silenceDue, h, h2, State.notifyDisconnected, State.emitTel]
    · rw [show s.watchdog = s by simp [State.watchdog, h, h2]]
      simp [silenceDue, h, h2]
      exact congrArg (fun c => { s with connected := c }) h

end Sys2Proof.Machine
end

