-- ==== Sys2Proof/Tests/Slice0.lean ====
section
/-! SUPPORT. The model's own tests: ill-formed terms refused, words written out from the spec's
encoding, small vectors of 95_test_vectors.md, and a state that meets the hypotheses of each
statement. -/

namespace Sys2Proof.Tests

open Sys2Proof.Machine

/-! ### Well-formedness: one ill-formed term for each check -/

theorem test_wf_set_channel : (Instr.set 2147483648 0).wf = false := by decide
theorem test_wf_set_value : (Instr.set 0 (-2147483649)).wf = false := by decide
theorem test_wf_setmItem_channel : (Instr.setmItem (-2147483649) 0).wf = false := by decide
theorem test_wf_setmItem_value : (Instr.setmItem 0 2147483648).wf = false := by decide
theorem test_wf_clear_channel : (Instr.clear 2147483648).wf = false := by decide

/-! ### Decoding: words written out from 30_encoding.md R70 and R72 -/

/-- OP = 01, B = 00, RSV = 0000; A = 2001 = 0x7D1 (V-ENC-3). -/
theorem test_decode_tickBegin : decode ⟨0x00000001, 0x000007D1, 0⟩ = .ok (.tickBegin 2001) := by rfl
/-- OP = 02, B = 0F in bits 15..8 (V-ENC-2). -/
theorem test_decode_rxByte : decode ⟨0x00000F02, 0, 0⟩ = .ok (.rxByte 0x0F) := by rfl
/-- OP = 03, A = -1, V = -5 in two's complement (V-ENC-4). -/
theorem test_decode_set : decode ⟨0x00000003, 0xFFFFFFFF, 0xFFFFFFFB⟩ = .ok (.set (-1) (-5)) := by rfl
theorem test_decode_setmBegin : decode ⟨0x00000004, 0, 0⟩ = .ok .setmBegin := by rfl
/-- OP = 05, A = 17, V = 5. -/
theorem test_decode_setmItem : decode ⟨0x00000005, 17, 5⟩ = .ok (.setmItem 17 5) := by rfl
theorem test_decode_setmEnd : decode ⟨0x00000006, 0, 0⟩ = .ok .setmEnd := by rfl
/-- OP = 07, A = the most negative i32. -/
theorem test_decode_clear : decode ⟨0x00000007, 0x80000000, 0⟩ = .ok (.clear (-2147483648)) := by rfl
theorem test_decode_clearAll : decode ⟨0x00000008, 0, 0⟩ = .ok .clearAll := by rfl
theorem test_decode_status : decode ⟨0x00000009, 0, 0⟩ = .ok .status := by rfl
theorem test_decode_tickEnd : decode ⟨0x0000000A, 0, 0⟩ = .ok .tickEnd := by rfl

/-- V-PF-1. -/
theorem test_decode_illegal_high : decode ⟨0x0000000B, 0, 0⟩ = .error .illegalOpcode := by rfl
/-- V-PF-2. -/
theorem test_decode_illegal_zero : decode ⟨0, 0, 0⟩ = .error .illegalOpcode := by rfl
/-- V-PF-3. -/
theorem test_decode_reserved_a : decode ⟨0x00000008, 1, 0⟩ = .error .reservedField := by rfl
/-- V-PF-4. -/
theorem test_decode_reserved_rsv : decode ⟨0x00010002, 0, 0⟩ = .error .reservedField := by rfl
/-- V-PF-5. -/
theorem test_decode_reserved_b : decode ⟨0x00000F03, 1, 5⟩ = .error .reservedField := by rfl
/-- R75: TICK_BEGIN must have V = 0 (R72). -/
theorem test_decode_reserved_v : decode ⟨0x00000001, 5, 1⟩ = .error .reservedField := by rfl

/-- The table's numbering: bits 31..0 are W0 and bits 63..32 are W1. -/
theorem test_decodeTableWord : decodeTableWord 96 (0x1 + 7 * 2 ^ 32) = some (.tickBegin 7) := by rfl
/-- A row given in 32 bits: the other words are 0. -/
theorem test_decodeTableWord_short : decodeTableWord 32 0x0000AB02 = some (.rxByte 0xAB) := by rfl

/-- R54: each word least significant byte first, `W0` before `W1` before `W2`. -/
theorem test_serialised :
    (⟨0x04030201, 0x08070605, 0x0C0B0A09⟩ : PortWords).toBytes
      = [0x01, 0x02, 0x03, 0x04, 0x05, 0x06, 0x07, 0x08, 0x09, 0x0A, 0x0B, 0x0C] := by decide

/-! ### One step on a small state -/

/-- The reset state moved to a phase of an open tick. -/
def inPhase (p : Phase) : State := { State.reset with phase := p }

/-- A state of an open tick with record 2 (channel 3) active since `t0`, at tick time `t1`. -/
def withOverride (t0 t1 : Time) : State :=
  { inPhase .rx with ov := State.reset.ov.set 2 ⟨true, 1500, t0⟩, now := t1 }

/-- The state that presents `t` next. -/
def presenting (s : State) (t : PortWords) : State := { s with host := [.transact t] }

/-- Apply a test to the next state. -/
def afterNext (r : Result) (f : State → Bool) : Bool :=
  match r with
  | .next s => f s
  | _ => false

theorem test_tickBegin_opens :
    afterNext (exec (.tickBegin 9) (inPhase .idle)) (fun s => s.now == 9 && s.phase == .rx)
      = true := by decide
/-- V-PF-10. -/
theorem test_tickBegin_outOfPhase :
    afterNext (exec (.tickBegin 5) (inPhase .rx)) (fun s => s.fault && s.faultCode == 3)
      = true := by decide
/-- V-SYN-2. -/
theorem test_rxByte_header :
    afterNext (exec (.rxByte 0x0F) (inPhase .rx)) (fun s => s.idx == 1 && s.buf[0] == 0x0F)
      = true := by decide
/-- V-SYN-8. -/
theorem test_rxByte_stray :
    afterNext (exec (.rxByte 0x0F) { inPhase .rx with idx := 27 }) (fun s => s.idx == 0)
      = true := by decide
/-- V-OVR-4. -/
theorem test_set_boundary :
    afterNext (exec (.set 1 2047) (inPhase .rx))
      (fun s => s.ov[0] == ⟨true, 2047, 0⟩ && s.tel == [.channelSet 1 2047 0]) = true := by decide
/-- V-OVR-6: the channel is checked first. -/
theorem test_set_channelFirst :
    afterNext (exec (.set 0 5000) (inPhase .rx)) (fun s => s.tel == [.error .invalidChannel 3 0])
      = true := by decide
theorem test_setmBegin_clearsCount :
    afterNext (exec .setmBegin { inPhase .cmd with batchCount := 7 })
      (fun s => s.batchCount == 0 && s.phase == .batch) = true := by decide
/-- V-PF-12. -/
theorem test_setmItem_overflow :
    afterNext (exec (.setmItem 1 1) { inPhase .batch with batchCount := 0xFFFFFFFF })
      (fun s => s.faultCode == 4 && !s.ov[0].active) = true := by decide
/-- V-PF-13. -/
theorem test_setmItem_invalidBeforeOverflow :
    afterNext (exec (.setmItem 0 1) { inPhase .batch with batchCount := 0xFFFFFFFF })
      (fun s => !s.fault && s.tel == [.error .invalidChannel 5 0]) = true := by decide
/-- V-OVR-19. -/
theorem test_setmEnd_reports :
    afterNext (exec .setmEnd (inPhase .batch)) (fun s => s.tel == [.channelsSet 0 0]) = true := by
  decide
/-- V-OVR-7. -/
theorem test_clear_inactive :
    afterNext (exec (.clear 4) (inPhase .rx))
      (fun s => s.tel == [.channelCleared 4 0] && s.ov == State.reset.ov) = true := by decide
/-- V-OVR-9. -/
theorem test_clear_invalid :
    afterNext (exec (.clear 17) (inPhase .rx)) (fun s => s.tel == [.error .invalidChannel 7 17])
      = true := by decide
/-- V-OVR-8. -/
theorem test_clearAll :
    afterNext (exec .clearAll (withOverride 0 0))
      (fun s => s.tel == [.allCleared 0] && s.ov[2] == ⟨false, 1500, 0⟩) = true := by decide
/-- V-OVR-14. -/
theorem test_status_negativeRemaining :
    afterNext (exec .status (withOverride 0 2500))
      (fun s => s.tel == [.overrideStatus 2500 [⟨3, 1500, -500⟩]]) = true := by decide
/-- V-OVR-16, and R151's boundary: 2000 is not expired. -/
theorem test_tickEnd_atLifetime :
    afterNext (exec .tickEnd (withOverride 0xFFFFFFFF 0x7CF)) (fun s => s.outCh[2] == 1500)
      = true := by decide
/-- V-OVR-16: 2001 is expired. -/
theorem test_tickEnd_pastLifetime :
    afterNext (exec .tickEnd (withOverride 0xFFFFFFFF 0x7D0))
      (fun s => s.tel == [.overrideExpired 3 0x7D0] && s.outCh[2] == 0) = true := by decide

/-- V-PF-11: the illegal opcode is reported, not the phase. -/
theorem test_transact_illegalFirst :
    afterNext (transact ⟨0x0000000B, 0, 0⟩ (inPhase .idle)) (fun s => s.faultCode == 1) = true := by
  decide
/-- The first instruction after reset, presented through the host's interface. -/
theorem test_withFetchWord :
    afterNext (step (State.reset.withFetchWord 96 (0x1 + 9 * 2 ^ 32))) (fun s => s.now == 9)
      = true := by decide

/-! ### The codec -/

/-- V-COD-12's frame. -/
def frame12 : Frame :=
  #v[0x0F, 0x10, 0x11, 0x12, 0x13, 0x14, 0x15, 0x16, 0x17, 0x18, 0x19, 0x1A, 0x1B, 0x1C, 0x1D,
    0x1E, 0x1F, 0x20, 0x21, 0x22, 0x23, 0x24, 0x25, 0xF3, 0x00]

/-- V-COD-12: channels 0, 2, 5 (three bytes) and 15. -/
theorem test_decode_frame12 :
    decodeChannel frame12 0 = 272 ∧ decodeChannel frame12 2 = 76 ∧ decodeChannel frame12 5 = 46
      ∧ decodeChannel frame12 15 = 297 := by decide
/-- V-COD-11 with byte 23 = F3, 04 and 08. -/
theorem test_flags : frameLostBit 0xF3 = false ∧ failsafeBit 0xF3 = false ∧ frameLostBit 4 = true
    ∧ failsafeBit 4 = false ∧ failsafeBit 8 = true := by decide
/-- V-COD-6: bytes 1, 2, 4 and 22 of the ramp, and the flags byte. -/
theorem test_encode_ramp :
    let ch : Channels := Vector.ofFn fun i : Fin 16 => BitVec.ofNat 11 (100 * i.val)
    payloadByte ch 0 = 0x00 ∧ payloadByte ch 1 = 0x20 ∧ payloadByte ch 3 = 0x32
      ∧ payloadByte ch 21 = 0xBB ∧ (encodeFrame Config.stated ch)[23] = 0 := by decide
/-- V-COD-10: `0xFFFF` gives F[1] = FF and F[2] = 07. -/
theorem test_encode_truncates :
    (encodeInts Config.stated ((Vector.replicate 16 0).set 0 0xFFFF))[1] = 0xFF
      ∧ (encodeInts Config.stated ((Vector.replicate 16 0).set 0 0xFFFF))[2] = 0x07 := by
  decide +kernel
/-- R82's example `SET 3, 1500`, and V-ENC-1. -/
theorem test_assembler :
    assembleChars ['S', 'E', 'T', ' ', '3', ',', ' ', '1', '5', '0', '0'] = some (.set 3 1500)
      ∧ portHexChars (encode (.set 3 1500))
        = ['0', '0', '0', '0', '0', '0', '0', '3', ':', '0', '0', '0', '0', '0', '0', '0', '3',
          ':', '0', '0', '0', '0', '0', '5', 'D', 'C'] := by decide +kernel

/-! ### Witnesses: for each statement with hypotheses, a state and operands that meet them all -/

/-- A state that has taken a port fault. -/
def faulted : State := { State.reset with fault := true, faultCode := 3 }

/-- A frame with its markers and a payload of header bytes. -/
def headerFrame : Frame := (Vector.replicate 25 0x0F).set 24 0x00

/-- An open tick, Disconnected, in which `headerFrame` lacks only its last byte. -/
def lastByteMissing : State := { inPhase .rx with buf := headerFrame, idx := 24 }

/-- An open tick in which a frame completed. -/
def frameCompleted : State := { inPhase .rx with frameDone := true, connected := true }

theorem witness_DecodeOfEncode :
    (Instr.set (-2147483648) 2147483647).wf = true
      ∧ (Instr.setmItem 2147483647 (-2147483648)).wf = true
      ∧ (Instr.clear (-2147483648)).wf = true ∧ (Instr.tickBegin 0xFFFFFFFF).wf = true
      ∧ (Instr.rxByte 0xFF).wf = true := by decide

theorem witness_EncodeOfDecode :
    decode ⟨0x00000003, 0x80000000, 0x7FFFFFFF⟩ = .ok (.set (-2147483648) 2147483647) := by rfl

theorem witness_DecodeAgreesWithOpcodeTable :
    (∃ r ∈ opcodeRows, r.op = .rxByte ∧ r.admits ⟨0x0000FF02, 0, 0⟩ = true)
      ∧ decode ⟨0x0000FF02, 0, 0⟩ = .ok (.rxByte 0xFF) :=
  ⟨⟨_, List.mem_cons_of_mem _ (List.mem_cons_self ..), rfl, by decide⟩, rfl⟩

theorem witness_StepRunsDecodedTransaction :
    (presenting State.reset ⟨0x00000001, 5, 0⟩).host = [.transact ⟨0x00000001, 5, 0⟩]
      ∧ decode ⟨0x00000001, 5, 0⟩ = .ok (.tickBegin 5) := ⟨rfl, rfl⟩

/-- One presented triple for each branch: faulted, the two boundary opcodes, a reserved field, out of
phase, and a transaction that runs. -/
theorem witness_ChecksInOrder :
    (presenting faulted ⟨0, 0, 0⟩).fault = true
      ∧ (presenting State.reset ⟨0x0000000B, 0, 0⟩).host = [.transact ⟨0x0000000B, 0, 0⟩]
      ∧ ((0x0000000B : Word).extractLsb' 0 8).toNat = 0x0B
      ∧ opcodeRows.find? (fun r => r.admits ⟨0x0000000A, 0, 1⟩) = none
      ∧ phaseAfter .tickEnd State.reset.phase = none
      ∧ (opcodeRows.find? (fun r => r.admits ⟨0x0000000A, 0, 0⟩)).map (·.op) = some .tickEnd
      ∧ phaseAfter .tickEnd (inPhase .rx).phase = some .idle := by decide

theorem witness_EveryStepAnswersAndIdleHolds : State.reset.host = [] := rfl

/-- The three cases: out of sequence, in sequence, and in sequence with a fault of the rule's own. -/
theorem witness_PhaseTableEnforced :
    (inPhase .batch).fault = false ∧ phaseAfter .tickEnd (inPhase .batch).phase = none
      ∧ phaseAfter .setmEnd (inPhase .batch).phase = some .cmd
      ∧ afterNext (exec (.setmItem 16 2047) { inPhase .batch with batchCount := 0xFFFFFFFF })
          (fun t => t.fault) = true := by decide

/-- Each of the four codes is raised. -/
theorem witness_PortFaultChangesNothingElse :
    transact ⟨0x000000FF, 0, 0⟩ State.reset = .next (State.reset.raisePortFault .illegalOpcode)
      ∧ transact ⟨0x00000001, 0, 1⟩ State.reset = .next (State.reset.raisePortFault .reservedField)
      ∧ transact ⟨0x0000000A, 0, 0⟩ State.reset = .next (State.reset.raisePortFault .sequence)
      ∧ afterNext (transact ⟨0x00000005, 1, 0⟩ { inPhase .batch with batchCount := 0xFFFFFFFF })
          (fun t => t.fault && t.faultCode == 4) = true :=
  ⟨rfl, rfl, rfl, by decide⟩

theorem witness_FaultIsStickyUntilReset :
    (presenting faulted ⟨0x00000001, 5, 0⟩).fault = true
      ∧ HostAction.assertReset ∉ (presenting faulted ⟨0x00000001, 5, 0⟩).host.take 1
      ∧ HostAction.assertReset ∉
          ({ faulted with host := [.drainTel, .drainFtx, .assertReset] } : State).host.take 2 := by
  decide

theorem witness_ResetErasesAllAndAloneClearsFault :
    ({ faulted with host := [.assertReset] } : State).host = [.assertReset]
      ∧ step { faulted with host := [.assertReset] } = .next State.reset
      ∧ faulted.fault = true ∧ State.reset.fault = false := ⟨rfl, rfl, rfl, rfl⟩

theorem witness_DrainOnlyRemovesOldest :
    ({ State.reset with host := [.drainTel], tel := [.allCleared 0] } : State).host = [.drainTel]
      ∧ ({ State.reset with host := [.drainFtx] } : State).host = [.drainFtx] := ⟨rfl, rfl⟩

theorem witness_ParametersNeverChange : step State.reset = .next State.reset := rfl

theorem witness_TickBeginOpensTick :
    State.reset.fault = false ∧ State.reset.phase = .idle := ⟨rfl, rfl⟩

/-- Both clauses: a header byte and another. -/
theorem witness_SeekingTakesOnlyHeader :
    (inPhase .rx).fault = false ∧ (inPhase .rx).phase = .rx ∧ (inPhase .rx).idx = 0
      ∧ (0x0F : Byte) = (inPhase .rx).cfg.header ∧ (0x10 : Byte) ≠ (inPhase .rx).cfg.header := by
  decide

/-- The first and the last index of Filling before the 25th byte. -/
theorem witness_FillingAppendsAnyByte :
    ({ inPhase .rx with idx := 1 } : State).idx = BitVec.ofNat 5 (1 : Fin 25).val
      ∧ ({ inPhase .rx with idx := 23 } : State).idx = BitVec.ofNat 5 (23 : Fin 25).val
      ∧ (inPhase .rx).fault = false ∧ (inPhase .rx).phase = .rx := by decide

theorem witness_FooterMismatchDropsFrame :
    lastByteMissing.fault = false ∧ lastByteMissing.phase = .rx ∧ lastByteMissing.idx = 24
      ∧ (0x01 : Byte) ≠ lastByteMissing.cfg.footer := by decide

theorem witness_FooterMatchCompletesFrame :
    lastByteMissing.fault = false ∧ lastByteMissing.phase = .rx ∧ lastByteMissing.idx = 24
      ∧ (0x00 : Byte) = lastByteMissing.cfg.footer ∧ lastByteMissing.connected = false := by decide

/-- Both ends of the stray range. -/
theorem witness_StrayByteIsDiscarded :
    (inPhase .rx).fault = false ∧ (inPhase .rx).phase = .rx
      ∧ 25 ≤ ({ inPhase .rx with idx := 25 } : State).idx.toNat
      ∧ 25 ≤ ({ inPhase .rx with idx := 31 } : State).idx.toNat := by decide

theorem witness_SynchronisesOnCleanNoise :
    (inPhase .rx).fault = false ∧ (inPhase .rx).phase = .rx ∧ (inPhase .rx).idx = 0
      ∧ (∀ b ∈ ([0x55, 0x00] : List Byte), b ≠ (inPhase .rx).cfg.header)
      ∧ headerFrame[0] = (inPhase .rx).cfg.header ∧ headerFrame[24] = (inPhase .rx).cfg.footer
      ∧ [(0x55 : Byte)] <+: [0x55, 0x00] ++ headerFrame.toList
      ∧ [(0x55 : Byte)] ≠ [0x55, 0x00] ++ headerFrame.toList := by decide

theorem witness_LastFrameOfTickStays :
    (inPhase .rx).fault = false ∧ (inPhase .rx).phase = .rx ∧ (inPhase .rx).idx = 0
    ∧ ∀ G ∈ [headerFrame] ++ [frame12],
      G[0] = (inPhase .rx).cfg.header ∧ G[24] = (inPhase .rx).cfg.footer := by
  simp only [List.cons_append, List.nil_append, List.forall_mem_cons]
  exact ⟨rfl, rfl, rfl, by decide, by decide, by simp⟩

/-- The first and the last point at which the bytes can be cut. -/
theorem witness_PartialFrameCarriesOver :
    (inPhase .rx).fault = false ∧ (inPhase .rx).phase = .rx ∧ (inPhase .rx).idx = 0
      ∧ headerFrame[0] = (inPhase .rx).cfg.header ∧ headerFrame[24] = (inPhase .rx).cfg.footer
      ∧ 0 < 25 ∧ 24 < 25 := by decide

/-- Both cases: a byte that completes a frame, and one that does not. -/
theorem witness_InputChangesOnlyOnCompletion :
    afterNext (transact ⟨0x00000002, 0, 0⟩ lastByteMissing) (fun t => t.frameDone) = true
      ∧ afterNext (transact ⟨0x00000102, 0, 0⟩ lastByteMissing) (fun t => !t.frameDone) = true := by
  decide

/-- Two different frames that agree where Decode reads. -/
theorem witness_DecodeIgnoresReservedBits :
    let G : Frame := (frame12.set 23 0x00).set 0 0xAA
    (∀ k : Fin 25, 1 ≤ k.val → k.val ≤ 22 → frame12[k] = G[k])
      ∧ frame12[23].getLsbD 2 = G[23].getLsbD 2 ∧ frame12[23].getLsbD 3 = G[23].getLsbD 3
      ∧ frame12 ≠ G := by decide

theorem witness_EncodeOfDecodedFrame : 1 ≤ (1 : Fin 25).val ∧ (22 : Fin 25).val ≤ 22 := by decide

/-- Both phases in which a command is legal. -/
theorem witness_SetWritesRecord :
    (inPhase .rx).fault = false ∧ ((inPhase .rx).phase = .rx ∨ (inPhase .rx).phase = .cmd)
      ∧ (inPhase .cmd).fault = false ∧ ((inPhase .cmd).phase = .rx ∨ (inPhase .cmd).phase = .cmd) := by
  decide

/-- Each clause at both boundaries of its range. -/
theorem witness_SetReportsInvalidOperand :
    (inPhase .rx).fault = false ∧ ((inPhase .rx).phase = .rx ∨ (inPhase .rx).phase = .cmd)
      ∧ ¬ (1 ≤ (0 : Int) ∧ (0 : Int) ≤ 16) ∧ ¬ (1 ≤ (17 : Int) ∧ (17 : Int) ≤ 16)
      ∧ (1 : Int) ≤ 16 ∧ ¬ (0 ≤ (-1 : Int) ∧ (-1 : Int) ≤ 2047)
      ∧ ¬ (0 ≤ (2048 : Int) ∧ (2048 : Int) ≤ 2047) := by decide

theorem witness_ClearDeactivatesRecord :
    (inPhase .cmd).fault = false ∧ ((inPhase .cmd).phase = .rx ∨ (inPhase .cmd).phase = .cmd)
      ∧ ¬ (1 ≤ (0 : Int) ∧ (0 : Int) ≤ 16) ∧ ¬ (1 ≤ (17 : Int) ∧ (17 : Int) ≤ 16) := by decide

theorem witness_ClearAllDeactivatesEveryRecord :
    (withOverride 0 5).fault = false
      ∧ ((withOverride 0 5).phase = .rx ∨ (withOverride 0 5).phase = .cmd) := by decide

theorem witness_StatusListsActiveRecords :
    (withOverride 0 2500).fault = false
      ∧ ((withOverride 0 2500).phase = .rx ∨ (withOverride 0 2500).phase = .cmd) := by decide

/-- An open tick with an expired record, a completed frame and a silent input. -/
theorem witness_TickEndEffect :
    ({ withOverride 0 5001 with frameDone := true } : State).fault = false
      ∧ ({ withOverride 0 5001 with frameDone := true } : State).phase = .rx := ⟨rfl, rfl⟩

theorem witness_BatchOpensAndCloses :
    (inPhase .batch).fault = false ∧ (inPhase .batch).phase = .batch := ⟨rfl, rfl⟩

/-- The count just below its last value. -/
theorem witness_SetmItemWritesAndCounts :
    (inPhase .batch).fault = false ∧ (inPhase .batch).phase = .batch
      ∧ ({ inPhase .batch with batchCount := 0xFFFFFFFE } : State).batchCount ≠ 0xFFFFFFFF := by
  decide

theorem witness_SetmItemReportsOrOverflows :
    ({ inPhase .batch with batchCount := 0xFFFFFFFF } : State).batchCount = 0xFFFFFFFF
      ∧ (inPhase .batch).fault = false ∧ (inPhase .batch).phase = .batch := ⟨rfl, rfl, rfl⟩

/-- An inactive record for law 2, failing transactions for law 3, a short batch for law 4. -/
theorem witness_LawsOfOverrideTable :
    (inPhase .rx).fault = false ∧ (inPhase .batch).fault = false ∧ (inPhase .batch).phase = .batch
      ∧ (inPhase .rx).phase = .rx ∧ (inPhase .rx).ov[(15 : Fin 16)].active = false
      ∧ afterNext (exec (.set 0 5) (inPhase .rx)) (fun _ => true) = true
      ∧ afterNext (exec (.setmItem 1 2048) (inPhase .batch)) (fun _ => true) = true
      ∧ afterNext (exec (.clear 17) (inPhase .rx)) (fun _ => true) = true
      ∧ ([(5, 10), (17, 5), (5, 2048)] : List (Int × Int)).length < 2 ^ 32 := by decide

/-- V-OVR-18 and an element that fails: two valid elements for one channel, one invalid. -/
theorem witness_SetManyAppliesEachElement :
    (inPhase .rx).fault = false ∧ (inPhase .rx).phase = .rx
      ∧ ([(5, 10), (5, 20), (0, 1)] : List (Int × Int)).length < 2 ^ 32 := by decide

/-- Each of the five transactions that may change the table changes it somewhere. -/
theorem witness_OnlyCommandsAndExpiryWriteTable :
    afterNext (transact (encode (.set 16 1)) (inPhase .rx)) (fun t => t.ov != (inPhase .rx).ov)
        = true
      ∧ afterNext (transact (encode (.setmItem 1 1)) (inPhase .batch))
          (fun t => t.ov != (inPhase .batch).ov) = true
      ∧ afterNext (transact (encode (.clear 3)) (withOverride 0 0))
          (fun t => t.ov != (withOverride 0 0).ov) = true
      ∧ afterNext (transact (encode .clearAll) (withOverride 0 0))
          (fun t => t.ov != (withOverride 0 0).ov) = true
      ∧ afterNext (transact (encode .tickEnd) (withOverride 0 2001))
          (fun t => t.ov != (withOverride 0 2001).ov) = true := by decide +kernel

/-- The two sides of the boundary: at 2000 ms and at 2001 ms. -/
theorem witness_ExpiryBoundary :
    (withOverride 5 2005).fault = false ∧ (withOverride 5 2005).phase = .rx
      ∧ (withOverride 5 2005).cfg.ovrLifeMs = 2000
      ∧ (withOverride 5 2005).ov[(2 : Fin 16)] = ⟨true, 1500, 5⟩
      ∧ (withOverride 5 2005).now = 5 + 2000 ∧ (withOverride 5 2006).now = 5 + 2001 := by decide

/-- An expired record, a record that is not, and the two transactions that activate one. -/
theorem witness_ExpiryEmittedOncePerActivation :
    (withOverride 0 2001).ov[(2 : Fin 16)].active = true
      ∧ (withOverride 0 2001).cfg.ovrLifeMs
          < (withOverride 0 2001).now - (withOverride 0 2001).ov[(2 : Fin 16)].setAt
      ∧ (withOverride 0 2001).ov[(3 : Fin 16)].active = false
      ∧ afterNext (transact (encode (.set 16 1)) (inPhase .rx))
          (fun t => t.ov[(15 : Fin 16)].active) = true
      ∧ afterNext (transact (encode (.setmItem 1 1)) (inPhase .batch))
          (fun t => t.ov[(0 : Fin 16)].active) = true := by decide +kernel

theorem witness_OutputChangesOnlyAtTickEnd :
    afterNext (transact (encode .tickEnd) (withOverride 0 0))
      (fun t => t.outCh != (withOverride 0 0).outCh) = true := by decide +kernel

/-- Both cases: a TICK_END that reports silence, and a transaction that does not. -/
theorem witness_NotificationTimeWrittenWithStatus :
    afterNext (transact (encode .tickEnd) { inPhase .rx with now := 5001 })
        (fun t => t.lastDiscNotify == 5001) = true
      ∧ afterNext (transact (encode .tickEnd) { inPhase .rx with now := 5000 })
          (fun t => t.lastDiscNotify == 0) = true := by decide +kernel

theorem witness_FirstStatusAfterReset :
    (∀ x ∈ ([100] : List Time), x.toNat ≤ 100) ∧ 100 < (101 : Time).toNat
      ∧ (∀ x ∈ ([5000] : List Time), x.toNat ≤ 5000) ∧ 5000 < (5001 : Time).toNat := by
  simp

theorem witness_TransmitsOnlyWithCompletedFrame :
    frameCompleted.CompletedThisTick
      ∧ afterNext (transact (encode .tickEnd) frameCompleted)
          (fun t => t.ftx.length == 1 && frameCompleted.ftx.isEmpty) = true :=
  ⟨fun _ _ => ⟨rfl, rfl⟩, by decide +kernel⟩

/-- The last tick in which the override lives, with a frame byte and commands that spare the record of
channel 3: another channel, an invalid value for channel 3, and a batch of both. -/
def livingTick : TimedTick :=
  ⟨4294967295 + 2000, [0x0F], [.set 4 1, .set 3 2048, .clear 17, .status, .batch [(3, -1), (1, 1)]]⟩

/-- The first tick after it. -/
def expiringTick : TimedTick := ⟨4294967295 + 2001, [0x55], [.set 2 0]⟩

/-- A true time whose 32-bit operand wraps before the override expires. -/
theorem witness_OverrideExpiresInTrueTime :
    TimeDuty (4294967295 :: [livingTick].map (fun k => k.time) ++ [expiringTick.time])
      ∧ ({ State.reset with ov := State.reset.ov.set 2 ⟨true, 1500, tickTime 4294967295⟩ }
          : State).ov[(2 : Fin 16)] = ⟨true, 1500, tickTime 4294967295⟩
      ∧ State.reset.fault = false ∧ State.reset.phase = .idle
      ∧ State.reset.cfg.ovrLifeMs = 2000
      ∧ (∀ k ∈ [livingTick], k.time ≤ 4294967295 + 2000)
      ∧ 4294967295 + 2000 < expiringTick.time
      ∧ ∀ k ∈ [livingTick] ++ [expiringTick], ∀ c ∈ k.commands,
          c.Spares ((2 : Fin 16).val + 1) ∧ c.Short := by
  refine ⟨?_, by decide, rfl, rfl, by decide, ?_, ?_, ?_⟩
  · simp [TimeDuty, livingTick, expiringTick]
  · simp [livingTick]
  · simp [expiringTick]
  · simp [livingTick, expiringTick, GrammarCommand.Spares, GrammarCommand.Short]
    omega

/-- `idx` at its last value at rest, and a step from there. -/
theorem witness_StepKeepsInvariants :
    (presenting lastByteMissing ⟨0x00000002, 0, 0⟩).Inv
      ∧ afterNext (step (presenting lastByteMissing ⟨0x00000002, 0, 0⟩)) (fun t => t.idx == 0)
          = true :=
  ⟨⟨by decide, by decide, by decide⟩, by decide⟩

/-- Both premises with their own hypotheses met: bytes stored, and a frame completed. -/
theorem witness_StepKeepsFrameInvariants :
    lastByteMissing.HeaderStored ∧ lastByteMissing.idx ≠ 0 ∧ frameCompleted.CompletedThisTick
      ∧ frameCompleted.phase ≠ .idle ∧ frameCompleted.frameDone = true
      ∧ step lastByteMissing = .next lastByteMissing :=
  ⟨fun _ => by decide, by decide, fun _ _ => ⟨rfl, rfl⟩, by decide, rfl, rfl⟩

theorem witness_ReachableStatesAreSound :
    runFor 1 { State.resetWith Config.stated with host := [.transact ⟨0, 0, 0⟩] }
      = .next (State.reset.raisePortFault .illegalOpcode) := rfl

theorem witness_TransactionsOnlyAppend :
    transact ⟨0x00000009, 0, 0⟩ (inPhase .rx)
      = .next { inPhase .cmd with tel := [.overrideStatus 0 []] } := by rfl

/-- Two different states that look alike. -/
theorem witness_HiddenStateIsUnobservable :
    State.reset.LooksLike { State.reset with outCh := Vector.replicate 16 7, now := 3 }
      ∧ State.reset ≠ { State.reset with outCh := Vector.replicate 16 7, now := 3 } := by
  refine ⟨?_, by decide⟩
  constructor <;> first | rfl | (intros; first | rfl | (exact ⟨rfl, rfl, rfl⟩) | contradiction)

/-- A stream with bytes, a command and a batch. -/
theorem witness_GrammarStreamsRunWithoutFault :
    let k : GrammarTick := ⟨5, [0x0F], [.set 1 2, .batch [(1, 1), (0, 0)]]⟩
    State.reset.fault = false ∧ State.reset.phase = .idle
      ∧ ∀ items, GrammarCommand.batch items ∈ k.commands → items.length < 2 ^ 32 := by
  refine ⟨rfl, rfl, ?_⟩
  intro items h
  simp at h
  simp [h]

theorem witness_FaultFreeStreamsAreGrammatical :
    afterNext (execAll [.tickBegin 0, .rxByte 1, .tickEnd] State.reset)
      (fun t => !t.fault && t.phase == .idle) = true := by decide +kernel

end Sys2Proof.Tests
end

section
/-! The proofs about the state (10_state.md). First what each transaction's rule writes, per case and as
a frame; then one rule for invariants of a step and of a run; then the obligations. -/

namespace Sys2Proof.Machine

/-! ### The table's transactions, one equation per outcome (R141 to R147) -/

/-- The ERROR record of a SET or SETM_ITEM that fails validation, the channel checked first (R140). -/
def rejection (op : Op) (n v : Int) : Event :=
  if validCh n then .error .invalidValue op.code v else .error .invalidChannel op.code n

theorem rejectSet_eq (s : State) (op : Op) (n v : Int) :
    s.rejectSet op n v = s.emitTel (rejection op n v) := by
  by_cases h : validCh n = true <;> simp [State.rejectSet, rejection, State.reject, h]

theorem ruleSet_of_valid {n v : Int} (s : State) (h : validSet n v = true) :
    State.ruleSet n v s
      = ((s.activate n v).emitTel (.channelSet n.toNat (truncChan v) s.now)).setPhase .cmd := by
  simp [State.ruleSet, h]

theorem ruleSet_of_invalid {n v : Int} (s : State) (h : ¬ validSet n v = true) :
    State.ruleSet n v s = (s.emitTel (rejection .set n v)).setPhase .cmd := by
  simp [State.ruleSet, h, rejectSet_eq]

theorem ruleSetmItem_of_valid {n v : Int} {s : State} (h : validSet n v = true)
    (hc : s.batchCount ≠ 0xFFFFFFFF) :
    State.ruleSetmItem n v s = { s.activate n v with batchCount := s.batchCount + 1 } := by
  rw [State.ruleSetmItem, if_pos h, if_neg hc]

theorem ruleSetmItem_of_full {n v : Int} {s : State} (h : validSet n v = true)
    (hc : s.batchCount = 0xFFFFFFFF) :
    State.ruleSetmItem n v s = s.raisePortFault .batchOverflow := by
  simp [State.ruleSetmItem, h, hc]

theorem ruleSetmItem_of_invalid {n v : Int} (s : State) (h : ¬ validSet n v = true) :
    State.ruleSetmItem n v s = s.emitTel (rejection .setmItem n v) := by
  simp [State.ruleSetmItem, h, rejectSet_eq]

theorem ruleClear_of_valid {n : Int} (s : State) (h : validCh n = true) :
    State.ruleClear n s
      = ((s.deactivate (chanIndex n)).emitTel (.channelCleared n.toNat s.now)).setPhase .cmd := by
  simp [State.ruleClear, h]

theorem ruleClear_of_invalid {n : Int} (s : State) (h : ¬ validCh n = true) :
    State.ruleClear n s
      = (s.emitTel (.error .invalidChannel Op.clear.code n)).setPhase .cmd := by
  simp [State.ruleClear, h, State.reject]

/-! ### RX_BYTE, one equation per case of R121 to R126 -/

/-- The four ranges of `idx` that R121 tells apart, the last byte of a frame on its own. -/
theorem idx_cases (x : BitVec 5) :
    x = 0 ∨ (x ≠ 0 ∧ x.toNat < 24) ∨ x = 24 ∨ 24 < x.toNat := by
  revert x; decide

theorem syncByte_of_header {s : State} {b : Byte} (h : s.idx = 0) (hb : b = s.cfg.header) :
    s.syncByte b = { s with buf := s.buf.set 0 b, idx := 1 } := by
  simp [State.syncByte, State.seekByte, h, hb]

theorem syncByte_of_noHeader {s : State} {b : Byte} (h : s.idx = 0) (hb : b ≠ s.cfg.header) :
    s.syncByte b = s := by
  simp [State.syncByte, State.seekByte, h, hb]

theorem syncByte_of_filling {s : State} {b : Byte} (h0 : s.idx ≠ 0) (h : s.idx.toNat < 24) :
    s.syncByte b = s.storeByte b := by
  rw [State.syncByte, if_neg h0, if_pos h.le, fillByte_of_lt h]

theorem syncByte_of_footer {s : State} {b : Byte} (h : s.idx = 24) (hb : b = s.cfg.footer) :
    s.syncByte b = { (s.storeByte b).frameComplete with idx := 0 } := by
  simp [State.syncByte, h, fillByte_of_last h, State.endFrame, State.storeByte, hb]

theorem syncByte_of_noFooter {s : State} {b : Byte} (h : s.idx = 24) (hb : b ≠ s.cfg.footer) :
    s.syncByte b = { s.storeByte b with idx := 0 } := by
  simp [State.syncByte, h, fillByte_of_last h, State.endFrame, State.storeByte, hb]

theorem syncByte_of_stray {s : State} {b : Byte} (h : 24 < s.idx.toNat) :
    s.syncByte b = { s with idx := 0 } := by
  have h0 : s.idx ≠ 0 := by intro h0; simp [h0] at h
  rw [State.syncByte, if_neg h0, if_neg h.not_ge]

/-- What the synchronizer writes in every case: its buffer and index, and what FrameComplete does. -/
theorem syncByte_frame (s : State) (b : Byte) :
    s.syncByte b = { s with
      inCh := (s.syncByte b).inCh
      frameLost := (s.syncByte b).frameLost
      failsafe := (s.syncByte b).failsafe
      buf := (s.syncByte b).buf
      idx := (s.syncByte b).idx
      connected := (s.syncByte b).connected
      lastFrameTime := (s.syncByte b).lastFrameTime
      frameDone := (s.syncByte b).frameDone
      tel := (s.syncByte b).tel } := by
  obtain h | ⟨h0, h⟩ | h | h := idx_cases s.idx
  · by_cases hb : b = s.cfg.header
    · rw [syncByte_of_header h hb]
    · rw [syncByte_of_noHeader h hb]
  · rw [syncByte_of_filling h0 h]; rfl
  · by_cases hb : b = s.cfg.footer
    · rw [syncByte_of_footer h hb, frameComplete_eq]; rfl
    · rw [syncByte_of_noFooter h hb]; rfl
  · rw [syncByte_of_stray h]

section syncByteFields
variable (s : State) (b : Byte)
@[simp] theorem syncByte_outCh : (s.syncByte b).outCh = s.outCh := by
  rw [syncByte_frame]
@[simp] theorem syncByte_ov : (s.syncByte b).ov = s.ov := by
  rw [syncByte_frame]
@[simp] theorem syncByte_lastDiscNotify : (s.syncByte b).lastDiscNotify = s.lastDiscNotify := by
  rw [syncByte_frame]
@[simp] theorem syncByte_phase : (s.syncByte b).phase = s.phase := by
  rw [syncByte_frame]
@[simp] theorem syncByte_now : (s.syncByte b).now = s.now := by
  rw [syncByte_frame]
@[simp] theorem syncByte_batchCount : (s.syncByte b).batchCount = s.batchCount := by
  rw [syncByte_frame]
@[simp] theorem syncByte_fault : (s.syncByte b).fault = s.fault := by
  rw [syncByte_frame]
@[simp] theorem syncByte_faultCode : (s.syncByte b).faultCode = s.faultCode := by
  rw [syncByte_frame]
@[simp] theorem syncByte_ftx : (s.syncByte b).ftx = s.ftx := by
  rw [syncByte_frame]
@[simp] theorem syncByte_cfg : (s.syncByte b).cfg = s.cfg := by
  rw [syncByte_frame]
@[simp] theorem syncByte_host : (s.syncByte b).host = s.host := by
  rw [syncByte_frame]
end syncByteFields

/-- The synchronizer leaves `idx` at rest in 0..24, from any value (R41, R126). -/
theorem syncByte_idx_le (s : State) (b : Byte) : (s.syncByte b).idx.toNat ≤ 24 := by
  obtain h | ⟨h0, h⟩ | h | h := idx_cases s.idx
  · by_cases hb : b = s.cfg.header
    · simp [syncByte_of_header h hb]
    · simp [syncByte_of_noHeader h hb, h]
  · have h1 : (s.idx + 1).toNat = s.idx.toNat + 1 := by bv_omega
    simp only [syncByte_of_filling h0 h, State.storeByte, h1]
    omega
  · by_cases hb : b = s.cfg.footer
    · simp [syncByte_of_footer h hb]
    · simp [syncByte_of_noFooter h hb]
  · simp [syncByte_of_stray h]

/-- Without a completed frame the synchronizer leaves the input channels and the flags (R22). -/
theorem syncByte_input_of_incomplete {s : State} {b : Byte}
    (h : ¬ (s.idx = 24 ∧ b = s.cfg.footer)) :
    (s.syncByte b).inCh = s.inCh ∧ (s.syncByte b).frameLost = s.frameLost
      ∧ (s.syncByte b).failsafe = s.failsafe := by
  obtain hi | ⟨h0, hi⟩ | hi | hi := idx_cases s.idx
  · by_cases hb : b = s.cfg.header
    · simp [syncByte_of_header hi hb]
    · simp [syncByte_of_noHeader hi hb]
  · simp [syncByte_of_filling h0 hi, State.storeByte]
  · simp [syncByte_of_noFooter hi fun hb => h ⟨hi, hb⟩, State.storeByte]
  · simp [syncByte_of_stray hi]

/-- A completed frame writes the input channels and the flags from the buffer it leaves (R124). -/
theorem syncByte_input_of_footer {s : State} {b : Byte} (h : s.idx = 24) (hb : b = s.cfg.footer) :
    (s.syncByte b).inCh = (decodeFrame (s.syncByte b).buf).ch
      ∧ (s.syncByte b).frameLost = (decodeFrame (s.syncByte b).buf).frameLost
      ∧ (s.syncByte b).failsafe = (decodeFrame (s.syncByte b).buf).failsafe := by
  simp [syncByte_of_footer h hb, frameComplete_eq]

/-! ### TICK_END and the other rules, as updates of the state -/

/-- The events of TICK_END's Apply and telemetry, ahead of the watchdog's (R172). -/
def tickEvents (s : State) : List Event :=
  expiryEvents s indices ++ if s.frameDone then [s.applyOverrides.channelsEvent] else []

/-- TICK_END, every element it writes (R150, R171, R174, R131). -/
theorem ruleOf_tickEnd_eq (s : State) :
    ruleOf .tickEnd s = { s with
      ov := Vector.ofFn (settledRecord s)
      outCh := Vector.ofFn (settledOut s)
      connected := s.connected && !silenceDue s
      lastDiscNotify := if silenceDue s then s.now else s.lastDiscNotify
      tel := s.tel ++ tickEvents s ++ if silenceDue s then [.status s.now false] else []
      ftx := s.ftx ++ if s.frameDone then [encodeFrame s.cfg (Vector.ofFn (settledOut s))] else []
      phase := .idle } := by
  have hdue : silenceDue s.applyOverrides.telemetry = silenceDue s := by
    simp only [telemetry_eq, applyOverrides_eq, silenceDue]
  simp only [ruleOf, watchdog_eq, hdue]
  simp only [tickEvents, telemetry_eq, applyOverrides_eq, State.setPhase, List.append_assoc]

/-- The transaction neither runs the synchronizer nor ends the tick. -/
def Instr.keepsLink : Instr → Bool
  | .rxByte _ => false
  | .tickEnd => false
  | _ => true

/-- What the rules of the other eight transactions can write: the table, the sequencing state, the
fault and the telemetry queue. -/
theorem ruleOf_frame_of_keepsLink {i : Instr} (h : Instr.keepsLink i = true) (s : State) :
    ruleOf i s = { s with
      ov := (ruleOf i s).ov
      phase := (ruleOf i s).phase
      now := (ruleOf i s).now
      frameDone := (ruleOf i s).frameDone
      batchCount := (ruleOf i s).batchCount
      fault := (ruleOf i s).fault
      faultCode := (ruleOf i s).faultCode
      tel := (ruleOf i s).tel } := by
  cases i with
  | rxByte | tickEnd => cases h
  | tickBegin | setmBegin | setmEnd | status => rfl
  | clearAll => simp only [ruleOf, deactivateAll_eq]; rfl
  | set n v =>
    by_cases hv : validSet n v = true
    · simp only [ruleOf, ruleSet_of_valid s hv]; rfl
    · simp only [ruleOf, ruleSet_of_invalid s hv]; rfl
  | setmItem n v =>
    by_cases hv : validSet n v = true
    · by_cases hc : s.batchCount = 0xFFFFFFFF
      · simp only [ruleOf, ruleSetmItem_of_full hv hc]; rfl
      · simp only [ruleOf, ruleSetmItem_of_valid hv hc]; rfl
    · simp only [ruleOf, ruleSetmItem_of_invalid s hv]; rfl
  | clear n =>
    by_cases hv : validCh n = true
    · simp only [ruleOf, ruleClear_of_valid s hv]; rfl
    · simp only [ruleOf, ruleClear_of_invalid s hv]; rfl

/-- A rule leaves the fault status alone, or it is the overflowing item of R145. -/
theorem ruleOf_fault_cases (i : Instr) (s : State) :
    ((ruleOf i s).fault = s.fault ∧ (ruleOf i s).faultCode = s.faultCode)
      ∨ ruleOf i s = s.raisePortFault .batchOverflow := by
  cases i with
  | tickBegin | setmBegin | setmEnd | status => exact .inl ⟨rfl, rfl⟩
  | rxByte b => exact .inl ⟨syncByte_fault s b, syncByte_faultCode s b⟩
  | tickEnd => rw [ruleOf_tickEnd_eq]; exact .inl ⟨rfl, rfl⟩
  | clearAll => simp [ruleOf, deactivateAll_eq]
  | set n v =>
    by_cases hv : validSet n v = true
    · simp [ruleOf, ruleSet_of_valid s hv, State.activate]
    · simp [ruleOf, ruleSet_of_invalid s hv]
  | setmItem n v =>
    by_cases hv : validSet n v = true
    · by_cases hc : s.batchCount = 0xFFFFFFFF
      · exact .inr (ruleSetmItem_of_full hv hc)
      · simp [ruleOf, ruleSetmItem_of_valid hv hc, State.activate]
    · simp [ruleOf, ruleSetmItem_of_invalid s hv]
  | clear n =>
    by_cases hv : validCh n = true
    · simp [ruleOf, ruleClear_of_valid s hv, State.deactivate]
    · simp [ruleOf, ruleClear_of_invalid s hv]

@[simp] theorem ruleOf_cfg (i : Instr) (s : State) : (ruleOf i s).cfg = s.cfg := by
  cases i with
  | rxByte b => exact syncByte_cfg s b
  | tickEnd => rw [ruleOf_tickEnd_eq]
  | _ => rw [ruleOf_frame_of_keepsLink rfl s]

@[simp] theorem ruleOf_host (i : Instr) (s : State) : (ruleOf i s).host = s.host := by
  cases i with
  | rxByte b => exact syncByte_host s b
  | tickEnd => rw [ruleOf_tickEnd_eq]
  | _ => rw [ruleOf_frame_of_keepsLink rfl s]

theorem ruleOf_idx_le (i : Instr) {s : State} (h : s.idx.toNat ≤ 24) :
    (ruleOf i s).idx.toNat ≤ 24 := by
  cases i with
  | rxByte b => exact syncByte_idx_le s b
  | tickEnd => rw [ruleOf_tickEnd_eq]; exact h
  | _ => rw [ruleOf_frame_of_keepsLink rfl s]; exact h

theorem ruleOf_outCh_of_ne_tickEnd {i : Instr} (h : i ≠ .tickEnd) (s : State) :
    (ruleOf i s).outCh = s.outCh := by
  cases i with
  | rxByte b => exact syncByte_outCh s b
  | tickEnd => exact absurd rfl h
  | _ => rw [ruleOf_frame_of_keepsLink rfl s]

theorem ruleOf_lastDiscNotify_of_ne_tickEnd {i : Instr} (h : i ≠ .tickEnd) (s : State) :
    (ruleOf i s).lastDiscNotify = s.lastDiscNotify := by
  cases i with
  | rxByte b => exact syncByte_lastDiscNotify s b
  | tickEnd => exact absurd rfl h
  | _ => rw [ruleOf_frame_of_keepsLink rfl s]

/-- Only RX_BYTE writes the input channels and the flags (R22, R24). -/
theorem ruleOf_input_of_ne_rxByte {i : Instr} (h : ∀ b, i ≠ .rxByte b) (s : State) :
    (ruleOf i s).inCh = s.inCh ∧ (ruleOf i s).frameLost = s.frameLost
      ∧ (ruleOf i s).failsafe = s.failsafe := by
  cases i with
  | rxByte b => exact absurd rfl (h b)
  | tickEnd => rw [ruleOf_tickEnd_eq]; exact ⟨rfl, rfl, rfl⟩
  | _ => rw [ruleOf_frame_of_keepsLink rfl s]; exact ⟨rfl, rfl, rfl⟩

/-! ### What every step and every run keeps -/

/-- A property of states that each thing a step can do keeps: a rule run in phase, a port fault,
reset, a change of the queues (a drain), and taking an action from the host's list. -/
structure StepInvariant (P : State → Prop) : Prop where
  rule : ∀ {i : Instr} {s : State} {p : Phase}, s.fault = false → phaseAfter i.op s.phase = some p →
    P s → P (ruleOf i s)
  fault : ∀ (c : PortFaultCode) (s : State), P s → P (s.raisePortFault c)
  reset : ∀ s : State, P s → P s.assertReset
  queues : ∀ (tel : List Event) (ftx : List Frame) (s : State),
    P s → P { s with tel := tel, ftx := ftx }
  host : ∀ (l : List HostAction) (s : State), P s → P { s with host := l }

theorem StepInvariant.transact {P : State → Prop} (hP : StepInvariant P) {w : PortWords}
    {s t : State} (hs : P s) (h : transact w s = .next t) : P t := by
  obtain ⟨-, rfl⟩ | ⟨-, c, rfl⟩ | ⟨hf, i, p, -, hp, rfl⟩ := transact_cases h
  · exact hs
  · exact hP.fault c s hs
  · exact hP.rule hf hp hs

theorem StepInvariant.perform {P : State → Prop} (hP : StepInvariant P) {a : HostAction}
    {s t : State} (hs : P s) (h : perform a s = .next t) : P t := by
  cases a with
  | transact w => exact hP.transact hs h
  | assertReset => cases h; exact hP.reset s hs
  | drainTel => cases h; exact hP.queues s.tel.tail s.ftx s hs
  | drainFtx => cases h; exact hP.queues s.tel s.ftx.tail s hs

theorem StepInvariant.step {P : State → Prop} (hP : StepInvariant P) {s t : State} (hs : P s)
    (h : step s = .next t) : P t := by
  obtain ⟨-, rfl⟩ | ⟨a, rest, -, ha⟩ := step_cases h
  · exact hs
  · exact hP.perform (hP.host rest s hs) ha

theorem runFor_succ {s t : State} (n : Nat) (h : step s = .next t) :
    runFor (n + 1) s = runFor n t := by
  simp only [runFor, Host.Core.run]
  rw [show Sys2Proof.core.step s = .next t from h]

theorem transact_next (w : PortWords) (s : State) : ∃ t, transact w s = .next t := by
  unfold transact
  split
  · exact ⟨_, rfl⟩
  · split
    · exact ⟨_, rfl⟩
    · exact exec_next _ s

theorem perform_next (a : HostAction) (s : State) : ∃ t, perform a s = .next t := by
  cases a with
  | transact w => exact transact_next w s
  | assertReset | drainTel | drainFtx => exact ⟨_, rfl⟩

/-- Every step answers a next state (R190, R195). -/
theorem step_next (s : State) : ∃ t, step s = .next t := by
  cases h : s.host with
  | nil => exact ⟨s, by simp [step, takeAction, h]⟩
  | cons a rest => rw [step_of_host h]; exact perform_next a _

theorem StepInvariant.runFor {P : State → Prop} (hP : StepInvariant P) (n : Nat) {s t : State}
    (hs : P s) (h : runFor n s = .next t) : P t := by
  induction n generalizing s with
  | zero => cases h; exact hs
  | succ n ih =>
    obtain ⟨u, hu⟩ := step_next s
    rw [runFor_succ n hu] at h
    exact ih (hP.step hs hu) h

/-! ### The invariants of R41 -/

theorem inv_resetWith (c : Config) : (State.resetWith c).Inv where
  idx_le := Nat.zero_le _
  fault_iff_code := ⟨nofun, fun h => absurd rfl h⟩
  code_known := Nat.zero_le _

theorem PortFaultCode.code_ne_zero (c : PortFaultCode) : c.code ≠ 0 := by
  cases c <;> decide

theorem PortFaultCode.code_le (c : PortFaultCode) : c.code.toNat ≤ 4 := by
  cases c <;> decide

theorem State.Inv.raisePortFault {s : State} (h : s.Inv) (c : PortFaultCode) :
    (s.raisePortFault c).Inv := by
  have hcode : (s.raisePortFault c).faultCode ≠ 0 ∧ (s.raisePortFault c).faultCode.toNat ≤ 4 := by
    rw [State.raisePortFault_faultCode]
    split
    · exact ⟨c.code_ne_zero, c.code_le⟩
    · exact ⟨by assumption, h.code_known⟩
  exact ⟨h.idx_le, iff_of_true rfl hcode.1, hcode.2⟩

theorem State.Inv.ruleOf {s : State} (h : s.Inv) (i : Instr) : (ruleOf i s).Inv := by
  obtain ⟨hf, hc⟩ | heq := ruleOf_fault_cases i s
  · exact ⟨ruleOf_idx_le i h.idx_le, hf ▸ hc ▸ h.fault_iff_code, hc ▸ h.code_known⟩
  · exact heq ▸ h.raisePortFault .batchOverflow

/-- A state's invariants speak of `idx`, the fault flag and its code alone. -/
theorem State.Inv.of_eq {s t : State} (h : s.Inv) (hi : t.idx = s.idx) (hf : t.fault = s.fault)
    (hc : t.faultCode = s.faultCode) : t.Inv :=
  ⟨hi ▸ h.idx_le, hf ▸ hc ▸ h.fault_iff_code, hc ▸ h.code_known⟩

theorem stepInvariant_inv : StepInvariant State.Inv where
  rule _ _ h := h.ruleOf _
  fault c _ h := h.raisePortFault c
  reset s _ := (inv_resetWith s.cfg).of_eq rfl rfl rfl
  queues _ _ _ h := h.of_eq rfl rfl rfl
  host _ _ h := h.of_eq rfl rfl rfl

/-- Settles O52: every part of a step keeps the invariants of R41. -/
theorem stepKeepsInvariants : Obligations.StepKeepsInvariants :=
  fun _ _ hs h => stepInvariant_inv.step hs h

end Sys2Proof.Machine
end

section
namespace Sys2Proof.Machine

/-! ### Reset and the parameters -/

/-- Settles O12: the reset state is written out field by field in the model. -/
theorem resetValues : Obligations.ResetValues :=
  ⟨fun _ => rfl, rfl, rfl, rfl, rfl, rfl, rfl, rfl⟩

/-- A given value of the build parameters is kept by every part of a step (R39). -/
theorem stepInvariant_cfg (c : Config) : StepInvariant fun s => s.cfg = c where
  rule _ _ h := (ruleOf_cfg _ _).trans h
  fault _ _ h := h
  reset _ h := h
  queues _ _ _ h := h
  host _ _ h := h

/-- Settles O15. -/
theorem parametersNeverChange : Obligations.ParametersNeverChange :=
  fun s _ h => (stepInvariant_cfg s.cfg).step rfl h

/-- Settles O51: at reset `idx` is 0 and the phase is IDLE, so the two frame invariants ask nothing. -/
theorem invariantsAtReset : Obligations.InvariantsAtReset :=
  fun c => ⟨inv_resetWith c, fun h => absurd rfl h, fun h => absurd rfl h⟩

/-! ### The input and output channels -/

theorem phase_of_phaseAfter_rxByte {p q : Phase} (h : phaseAfter .rxByte p = some q) : p = .rx := by
  cases p <;> cases h
  rfl

/-- Settles O25: of the three things a transaction can do only a rule writes the input, of the rules
only RX_BYTE's, and of its cases only the footer at `idx` 24. -/
theorem inputChangesOnlyOnCompletion : Obligations.InputChangesOnlyOnCompletion := by
  intro w s t h
  obtain ⟨-, rfl⟩ | ⟨-, c, rfl⟩ | ⟨hf, i, p, hd, hp, rfl⟩ := transact_cases h
  · exact .inl ⟨rfl, rfl, rfl⟩
  · exact .inl ⟨rfl, rfl, rfl⟩
  · cases i with
    | rxByte b =>
      by_cases hc : s.idx = 24 ∧ b = s.cfg.footer
      · obtain ⟨hi, rfl⟩ := hc
        exact .inr ⟨hf, phase_of_phaseAfter_rxByte hp, hi, hd, syncByte_input_of_footer hi rfl⟩
      · exact .inl (syncByte_input_of_incomplete hc)
    | _ => exact .inl (ruleOf_input_of_ne_rxByte (by simp) s)

/-- Settles O46. -/
theorem outputChangesOnlyAtTickEnd : Obligations.OutputChangesOnlyAtTickEnd := by
  intro w s t h hne
  obtain ⟨-, rfl⟩ | ⟨-, c, rfl⟩ | ⟨-, i, -, hd, -, rfl⟩ := transact_cases h
  · exact absurd rfl hne
  · exact absurd rfl hne
  · by_cases hi : i = .tickEnd
    · exact hi ▸ hd
    · exact absurd (ruleOf_outCh_of_ne_tickEnd hi s) hne

/-! ### The override table -/

/-- Apply leaves a record alone, or deactivates one whose lifetime has passed (R150). -/
theorem settledRecord_cases (s : State) (i : Fin 16) :
    settledRecord s i = s.ov[i]
      ∨ (s.ov[i].active = true ∧ s.cfg.ovrLifeMs < s.now - s.ov[i].setAt
        ∧ settledRecord s i
          = { active := false, value := s.ov[i].value, setAt := s.ov[i].setAt }) := by
  cases he : s.expired i
  · exact .inl (by simp [settledRecord, he])
  · have h := he
    obtain ⟨hact, hlife⟩ := Bool.and_eq_true_iff.1 h
    exact .inr ⟨hact, of_decide_eq_true hlife, by simp [settledRecord, he]⟩

/-- Settles O42: every other rule leaves `ov` as it is. -/
theorem onlyCommandsAndExpiryWriteTable : Obligations.OnlyCommandsAndExpiryWriteTable := by
  intro w s t h hne
  obtain ⟨-, rfl⟩ | ⟨-, c, rfl⟩ | ⟨-, i, -, hd, -, rfl⟩ := transact_cases h
  · exact absurd rfl hne
  · exact absurd rfl hne
  · refine ⟨i, hd, ?_⟩
    cases i with
    | tickBegin | setmBegin | setmEnd | status => exact absurd rfl hne
    | rxByte b => exact absurd (syncByte_ov s b) hne
    | set n v => exact .inl ⟨n, v, rfl⟩
    | setmItem n v => exact .inr (.inl ⟨n, v, rfl⟩)
    | clear n => exact .inr (.inr (.inl ⟨n, rfl⟩))
    | clearAll => exact .inr (.inr (.inr (.inl rfl)))
    | tickEnd =>
      refine .inr (.inr (.inr (.inr ⟨rfl, fun k => ?_⟩)))
      simpa [ruleOf_tickEnd_eq] using settledRecord_cases s k

/-! ### The notification time -/

/-- No event of the list reports a disconnection. -/
def NoDisconnect (l : List Event) : Prop := ∀ t, Event.status t false ∉ l

theorem noDisconnect_nil : NoDisconnect [] := fun _ => List.not_mem_nil

theorem noDisconnect_singleton {e : Event} (h : ∀ t, Event.status t false ≠ e) :
    NoDisconnect [e] :=
  fun t hm => h t (List.mem_singleton.1 hm)

theorem noDisconnect_rejection (op : Op) (n v : Int) : NoDisconnect [rejection op n v] :=
  noDisconnect_singleton fun _ => by unfold rejection; split <;> nofun

/-- The synchronizer's only event is the Connected status (R127). -/
theorem syncByte_tel (s : State) (b : Byte) :
    (s.syncByte b).tel = s.tel ∨ (s.syncByte b).tel = s.tel ++ [.status s.now true] := by
  obtain h | ⟨h0, h⟩ | h | h := idx_cases s.idx
  · by_cases hb : b = s.cfg.header
    · simp [syncByte_of_header h hb]
    · simp [syncByte_of_noHeader h hb]
  · simp [syncByte_of_filling h0 h, State.storeByte]
  · by_cases hb : b = s.cfg.footer
    · cases hc : s.connected <;>
        simp [syncByte_of_footer h hb, frameComplete_eq, State.storeByte, hc]
    · simp [syncByte_of_noFooter h hb, State.storeByte]
  · simp [syncByte_of_stray h]

/-- The rules other than TICK_END's append no report of a disconnection. -/
theorem ruleOf_tel_of_ne_tickEnd {i : Instr} (h : i ≠ .tickEnd) (s : State) :
    ∃ l, (ruleOf i s).tel = s.tel ++ l ∧ NoDisconnect l := by
  cases i with
  | tickEnd => exact absurd rfl h
  | tickBegin | setmBegin => exact ⟨[], (List.append_nil _).symm, noDisconnect_nil⟩
  | setmEnd | status => exact ⟨_, rfl, noDisconnect_singleton (by simp)⟩
  | clearAll =>
    exact ⟨[.allCleared s.now], by simp [ruleOf, deactivateAll_eq],
      noDisconnect_singleton (by simp)⟩
  | rxByte b =>
    obtain ht | ht := syncByte_tel s b
    · exact ⟨[], by simpa [ruleOf] using ht, noDisconnect_nil⟩
    · exact ⟨_, ht, noDisconnect_singleton (by simp)⟩
  | set n v =>
    by_cases hv : validSet n v = true
    · exact ⟨[.channelSet n.toNat (truncChan v) s.now], by rw [ruleOf, ruleSet_of_valid s hv]; rfl,
        noDisconnect_singleton (by simp)⟩
    · exact ⟨[rejection .set n v], by rw [ruleOf, ruleSet_of_invalid s hv]; rfl,
        noDisconnect_rejection _ n v⟩
  | setmItem n v =>
    by_cases hv : validSet n v = true
    · refine ⟨[], ?_, noDisconnect_nil⟩
      by_cases hc : s.batchCount = 0xFFFFFFFF
      · simp [ruleOf, ruleSetmItem_of_full hv hc]
      · simp [ruleOf, ruleSetmItem_of_valid hv hc, State.activate]
    · exact ⟨[rejection .setmItem n v], by rw [ruleOf, ruleSetmItem_of_invalid s hv]; rfl,
        noDisconnect_rejection _ n v⟩
  | clear n =>
    by_cases hv : validCh n = true
    · exact ⟨[.channelCleared n.toNat s.now], by rw [ruleOf, ruleClear_of_valid s hv]; rfl,
        noDisconnect_singleton (by simp)⟩
    · exact ⟨[.error .invalidChannel Op.clear.code n], by rw [ruleOf, ruleClear_of_invalid s hv]; rfl,
        noDisconnect_singleton (by simp)⟩

/-- TICK_END's events before the watchdog's report no disconnection. -/
theorem noDisconnect_tickEvents (s : State) : NoDisconnect (tickEvents s) := by
  intro t hm
  obtain hm | hm := List.mem_append.1 hm
  · simp [expiryEvents] at hm
  · cases hd : s.frameDone <;> simp [hd, State.channelsEvent] at hm

/-- Appended events that report no disconnection do not end in such a report. -/
theorem NoDisconnect.append_ne {l : List Event} (h : NoDisconnect l) (tel : List Event) (now : Time)
    (n : List Event) : tel ++ l ≠ tel ++ n ++ [.status now false] := by
  intro heq
  rw [List.append_assoc] at heq
  exact h now (List.append_cancel_left heq ▸ List.mem_append_right n (List.mem_singleton_self _))

/-- Settles O47: only TICK_END's watchdog notes the time, exactly when it reports the silence, and its
report is the last event of the tick. -/
theorem notificationTimeWrittenWithStatus : Obligations.NotificationTimeWrittenWithStatus := by
  intro w s t h
  have hkept : t.lastDiscNotify = s.lastDiscNotify → (∃ l, t.tel = s.tel ++ l ∧ NoDisconnect l) →
      t.lastDiscNotify = s.lastDiscNotify ∧ ∀ n, t.tel ≠ s.tel ++ n ++ [.status s.now false] :=
    fun ht ⟨_, hl, hn⟩ => ⟨ht, fun n => hl ▸ hn.append_ne s.tel s.now n⟩
  have hnil : ∃ l, s.tel = s.tel ++ l ∧ NoDisconnect l :=
    ⟨[], (List.append_nil _).symm, noDisconnect_nil⟩
  obtain ⟨-, rfl⟩ | ⟨-, c, rfl⟩ | ⟨-, i, -, hd, -, rfl⟩ := transact_cases h
  · exact .inl (hkept rfl hnil)
  · exact .inl (hkept rfl hnil)
  · by_cases hi : i = .tickEnd
    · subst hi
      cases hs : silenceDue s
      · exact .inl (hkept (by simp [ruleOf_tickEnd_eq, hs])
          ⟨tickEvents s, by simp [ruleOf_tickEnd_eq, hs], noDisconnect_tickEvents s⟩)
      · exact .inr ⟨hd, by simp [ruleOf_tickEnd_eq, hs], by simp [ruleOf_tickEnd_eq, hs],
          tickEvents s, by simp [ruleOf_tickEnd_eq, hs]⟩
    · exact .inl (hkept (ruleOf_lastDiscNotify_of_ne_tickEnd hi s) (ruleOf_tel_of_ne_tickEnd hi s))

/-! ### Reachable states -/

/-- A known fault code that is held is one of the four (R197). -/
theorem State.Inv.code_cases {s : State} (h : s.Inv) (hc : s.faultCode ≠ 0) :
    s.faultCode = 1 ∨ s.faultCode = 2 ∨ s.faultCode = 3 ∨ s.faultCode = 4 := by
  have hk := h.code_known
  generalize s.faultCode = c at hc hk
  revert c; decide

/-- From reset, transactions that open a tick, as far as the phase asks for, and then words that no
opcode names (R74). -/
def faultIn : Phase → List PortWords
  | .idle => [⟨0, 0, 0⟩]
  | .rx => [encode (.tickBegin 0), ⟨0, 0, 0⟩]
  | .cmd => [encode (.tickBegin 0), encode .status, ⟨0, 0, 0⟩]
  | .batch => [encode (.tickBegin 0), encode .setmBegin, ⟨0, 0, 0⟩]

/-- Settles O54: the invariants hold at reset and every step keeps them; a fault is reached in each
phase by an illegal opcode. -/
theorem reachableStatesAreSound : Obligations.ReachableStatesAreSound := by
  refine ⟨fun c hs n t h => ?_, fun c p => ?_⟩
  · have hinv : t.Inv :=
      stepInvariant_inv.runFor n (stepInvariant_inv.host hs _ (inv_resetWith c)) h
    exact ⟨hinv.idx_le, fun i => Nat.le_of_lt_succ t.ov[i].value.isLt, hinv.fault_iff_code,
      hinv.code_cases⟩
  · refine ⟨(faultIn p).map .transact, (faultIn p).length, ?_⟩
    cases p <;> exact ⟨_, rfl, rfl, rfl⟩

end Sys2Proof.Machine
end

section
namespace Sys2Proof.Machine

/-! ### Indistinguishable states (R221): each operation keeps `LooksLike` -/

theorem State.LooksLike.refl (s : State) : s.LooksLike s := by
  constructor <;> intros <;> simp

theorem State.LooksLike.emitTel {s t : State} (h : s.LooksLike t) (e : Event) :
    (s.emitTel e).LooksLike (t.emitTel e) :=
  { h with tel := by simp [h.tel] }

/-- Between the phases of an open tick nothing becomes readable but the count of a SetMany. -/
theorem State.LooksLike.setPhase {s t : State} (h : s.LooksLike t) {p : Phase}
    (hp : s.phase ≠ .idle) (hcount : p = .batch → s.batchCount = t.batchCount) :
    (s.setPhase p).LooksLike (t.setPhase p) :=
  { h with
    phase := rfl
    now := fun _ => h.now hp
    frameDone := fun _ => h.frameDone hp
    input := fun _ => h.input hp
    batchCount := hcount }

theorem State.LooksLike.raisePortFault {s t : State} (h : s.LooksLike t) (c : PortFaultCode) :
    (s.raisePortFault c).LooksLike (t.raisePortFault c) :=
  { h with fault := rfl, faultCode := by simp [h.faultCode] }

theorem State.LooksLike.setHost {s t : State} (h : s.LooksLike t) (l : List HostAction) :
    State.LooksLike { s with host := l } { t with host := l } :=
  { h with host := rfl }

/-- Two override tables that agree wherever a record is active. -/
theorem State.LooksLike.setTable {s t : State} (h : s.LooksLike t) {v w : Vector OvRecord 16}
    (hactive : ∀ i : Fin 16, v[i].active = w[i].active)
    (hrecord : ∀ i : Fin 16, v[i].active = true → v[i] = w[i]) :
    State.LooksLike { s with ov := v } { t with ov := w } :=
  { h with active := hactive, record := hrecord }

theorem getElem_set_record (v : Vector OvRecord 16) (i j : Fin 16) (r : OvRecord) :
    (v.set i r)[j] = if i = j then r else v[j] := by
  simp [Vector.getElem_set, Fin.ext_iff]

theorem State.LooksLike.setRecord {s t : State} (h : s.LooksLike t) (i : Fin 16) {r q : OvRecord}
    (hactive : r.active = q.active) (hrecord : r.active = true → r = q) :
    (s.setRecord i r).LooksLike (t.setRecord i q) := by
  refine h.setTable (fun j => ?_) (fun j => ?_) <;> rw [getElem_set_record, getElem_set_record]
  · split
    · exact hactive
    · exact h.active j
  · split
    · exact hrecord
    · exact h.record j

theorem State.LooksLike.activate {s t : State} (h : s.LooksLike t) (hp : s.phase ≠ .idle)
    (n v : Int) : (s.activate n v).LooksLike (t.activate n v) := by
  rw [State.activate, State.activate, h.now hp]
  exact h.setRecord _ rfl fun _ => rfl

theorem State.LooksLike.deactivate {s t : State} (h : s.LooksLike t) (i : Fin 16) :
    (s.deactivate i).LooksLike (t.deactivate i) :=
  h.setRecord i rfl nofun

theorem State.LooksLike.deactivateAll {s t : State} (h : s.LooksLike t) :
    s.deactivateAll.LooksLike t.deactivateAll := by
  rw [deactivateAll_eq, deactivateAll_eq]
  exact h.setTable (by simp) (by simp)

/-! #### The synchronizer -/

theorem State.LooksLike.clearIdx {s t : State} (h : s.LooksLike t) :
    State.LooksLike { s with idx := 0 } { t with idx := 0 } :=
  { h with idx := rfl, buf := nofun }

/-- The byte stored is no longer stale, and those below it were not (R31). -/
theorem State.LooksLike.storeByte_buf {s t : State} (h : s.LooksLike t) (b : Byte) (k : Fin 25)
    (hk : k.val ≤ s.idx.toNat) : (s.storeByte b).buf[k] = (t.storeByte b).buf[k] := by
  simp only [State.storeByte, ← h.idx, Fin.getElem_fin, Vector.getElem_setIfInBounds]
  split
  · rfl
  · exact h.buf k (by omega)

theorem State.LooksLike.storeByte {s t : State} (h : s.LooksLike t) (hi : s.idx.toNat ≤ 24)
    (b : Byte) : (s.storeByte b).LooksLike (t.storeByte b) :=
  { h with
    idx := by simp [State.storeByte, h.idx]
    buf := fun k hk => h.storeByte_buf b k <| by
      have hnext : (s.storeByte b).idx.toNat = s.idx.toNat + 1 := by
        simp only [State.storeByte]; bv_omega
      omega }

/-- With the whole buffer stored, FrameComplete writes the same input on both sides (R124). -/
theorem State.LooksLike.frameComplete {s t : State} (h : s.LooksLike t) (hp : s.phase ≠ .idle)
    (hbuf : s.buf = t.buf) : s.frameComplete.LooksLike t.frameComplete := by
  rw [frameComplete_eq, frameComplete_eq, hbuf, h.now hp, h.connected, h.tel]
  exact { h with
    connected := rfl
    lastFrameTime := rfl
    tel := rfl
    buf := fun _ _ => rfl
    now := fun _ => rfl
    frameDone := fun _ => rfl
    input := fun _ _ => ⟨rfl, rfl, rfl⟩ }

theorem State.LooksLike.syncByte {s t : State} (h : s.LooksLike t) (hp : s.phase ≠ .idle)
    (b : Byte) : (s.syncByte b).LooksLike (t.syncByte b) := by
  obtain hi | ⟨h0, hi⟩ | hi | hi := idx_cases s.idx
  · by_cases hb : b = s.cfg.header
    · rw [syncByte_of_header hi hb, syncByte_of_header (h.idx ▸ hi) (h.cfg ▸ hb)]
      refine { h with idx := rfl, buf := fun k hk => ?_ }
      obtain rfl : k = 0 := by
        apply Fin.ext; simpa using hk
      simp
    · rw [syncByte_of_noHeader hi hb, syncByte_of_noHeader (h.idx ▸ hi) (h.cfg ▸ hb)]
      exact h
  · rw [syncByte_of_filling h0 hi, syncByte_of_filling (h.idx ▸ h0) (h.idx ▸ hi)]
    exact h.storeByte hi.le b
  · have hle : s.idx.toNat ≤ 24 := by simp [hi]
    by_cases hb : b = s.cfg.footer
    · rw [syncByte_of_footer hi hb, syncByte_of_footer (h.idx ▸ hi) (h.cfg ▸ hb)]
      have hbuf : (s.storeByte b).buf = (t.storeByte b).buf :=
        Vector.ext fun k hk => h.storeByte_buf b ⟨k, hk⟩ <| by
          simp only [hi]; exact Nat.le_of_lt_succ hk
      exact ((h.storeByte hle b).frameComplete hp hbuf).clearIdx
    · rw [syncByte_of_noFooter hi hb, syncByte_of_noFooter (h.idx ▸ hi) (h.cfg ▸ hb)]
      exact (h.storeByte hle b).clearIdx
  · rw [syncByte_of_stray hi, syncByte_of_stray (h.idx ▸ hi)]
    exact h.clearIdx

/-! #### What the tick reads of the table -/

theorem State.LooksLike.expired {s t : State} (h : s.LooksLike t) (hp : s.phase ≠ .idle)
    (i : Fin 16) : s.expired i = t.expired i := by
  cases ha : s.ov[i].active
  · simp only [State.expired, ha, h.active i ▸ ha, Bool.false_and]
  · simp only [State.expired, h.record i ha, h.now hp, h.cfg]

theorem State.LooksLike.settledRecord_active {s t : State} (h : s.LooksLike t)
    (hp : s.phase ≠ .idle) (i : Fin 16) :
    (settledRecord s i).active = (settledRecord t i).active := by
  simp only [settledRecord, h.expired hp i, h.active i]

theorem State.LooksLike.settledRecord {s t : State} (h : s.LooksLike t) (hp : s.phase ≠ .idle)
    (i : Fin 16) (ha : (settledRecord s i).active = true) :
    settledRecord s i = settledRecord t i := by
  have hact : s.ov[i].active = true := (Bool.and_eq_true_iff.1 ha).1
  simp only [Machine.settledRecord, h.expired hp i, h.record i hact]

theorem State.LooksLike.settledOut {s t : State} (h : s.LooksLike t) (hp : s.phase ≠ .idle)
    (hd : s.frameDone = true) (i : Fin 16) : settledOut s i = settledOut t i := by
  obtain ⟨hin, -, -⟩ := h.input hp hd
  cases ha : (Machine.settledRecord s i).active
  · have ha' := h.settledRecord_active hp i ▸ ha
    simp only [Machine.settledOut, ha, ha', hin, Bool.false_eq_true, if_false]
  · have hact : s.ov[i].active = true := (Bool.and_eq_true_iff.1 ha).1
    simp only [Machine.settledOut, h.settledRecord_active hp i, h.record i hact, hin]

theorem State.LooksLike.statusList {s t : State} (h : s.LooksLike t) (hp : s.phase ≠ .idle) :
    s.statusList = t.statusList := by
  have hf : (indices.filter fun i => s.ov[i].active) = indices.filter fun i => t.ov[i].active :=
    List.filter_congr fun i _ => h.active i
  rw [State.statusList, State.statusList, hf]
  refine List.map_congr_left fun i hi => ?_
  have hact : s.ov[i].active = true := h.active i ▸ (List.mem_filter.1 hi).2
  simp only [State.remainingMs, h.record i hact, h.now hp, h.cfg]

theorem State.LooksLike.silenceDue {s t : State} (h : s.LooksLike t) (hp : s.phase ≠ .idle) :
    silenceDue s = silenceDue t := by
  simp only [Machine.silenceDue, h.connected, h.cfg, h.now hp, h.lastFrameTime, h.lastDiscNotify]

theorem State.LooksLike.channelsEvent {s t : State} (h : s.LooksLike t) (hp : s.phase ≠ .idle)
    (hd : s.frameDone = true) :
    s.applyOverrides.channelsEvent = t.applyOverrides.channelsEvent := by
  obtain ⟨hin, hlost, hfs⟩ := h.input hp hd
  have hout : Vector.ofFn (Machine.settledOut s) = Vector.ofFn (Machine.settledOut t) :=
    congrArg Vector.ofFn (funext fun i => h.settledOut hp hd i)
  simp only [applyOverrides_eq, State.channelsEvent, State.activeChannels, Fin.getElem_fin,
    Vector.getElem_ofFn, Fin.eta, h.settledRecord_active hp, hout, hin, hlost, hfs, h.now hp]

theorem State.LooksLike.tickEvents {s t : State} (h : s.LooksLike t) (hp : s.phase ≠ .idle) :
    tickEvents s = tickEvents t := by
  have hexp : expiryEvents s indices = expiryEvents t indices := by
    simp only [expiryEvents, funext (h.expired hp), h.now hp]
  cases hd : s.frameDone
  · have hd' := h.frameDone hp ▸ hd
    simp [Machine.tickEvents, hd, hd', hexp]
  · have hd' := h.frameDone hp ▸ hd
    simp [Machine.tickEvents, hd, hd', hexp, h.channelsEvent hp hd]

theorem State.LooksLike.tickEnd {s t : State} (h : s.LooksLike t) (hp : s.phase ≠ .idle) :
    (ruleOf .tickEnd s).LooksLike (ruleOf .tickEnd t) := by
  have hftx : (if s.frameDone then [encodeFrame s.cfg (Vector.ofFn (Machine.settledOut s))] else [])
      = if t.frameDone then [encodeFrame t.cfg (Vector.ofFn (Machine.settledOut t))] else [] := by
    rw [← h.frameDone hp]
    split
    · rename_i hd
      rw [h.cfg, show Machine.settledOut s = Machine.settledOut t from
        funext fun i => h.settledOut hp hd i]
    · rfl
  rw [ruleOf_tickEnd_eq, ruleOf_tickEnd_eq]
  exact { h with
    phase := rfl
    connected := by simp only [h.connected, h.silenceDue hp]
    lastDiscNotify := by simp only [h.lastDiscNotify, h.silenceDue hp, h.now hp]
    tel := by simp only [h.tel, h.tickEvents hp, h.silenceDue hp, h.now hp]
    ftx := by simp only [h.ftx, hftx]
    active := by simpa using h.settledRecord_active hp
    record := by simpa using h.settledRecord hp
    now := fun hne => absurd rfl hne
    frameDone := fun hne => absurd rfl hne
    input := fun hne => absurd rfl hne
    batchCount := nofun }

/-! #### Every rule, and every step -/

theorem phase_ne_idle_of_phaseAfter {i : Instr} {p q : Phase} (hi : ∀ now, i ≠ .tickBegin now)
    (h : phaseAfter i.op p = some q) : p ≠ .idle := by
  rintro rfl
  cases i with
  | tickBegin now => exact hi now rfl
  | _ => cases h

theorem phase_of_phaseAfter_setmItem {p q : Phase} (h : phaseAfter .setmItem p = some q) :
    p = .batch := by
  cases p <;> cases h
  rfl

theorem phase_of_phaseAfter_setmEnd {p q : Phase} (h : phaseAfter .setmEnd p = some q) :
    p = .batch := by
  cases p <;> cases h
  rfl

theorem State.LooksLike.ruleOf {s t : State} (h : s.LooksLike t) {i : Instr} {p : Phase}
    (hlegal : phaseAfter i.op s.phase = some p) : (ruleOf i s).LooksLike (ruleOf i t) := by
  have hopen : (∀ now, i ≠ .tickBegin now) → s.phase ≠ .idle :=
    fun hi => phase_ne_idle_of_phaseAfter hi hlegal
  cases i with
  | tickBegin now =>
    exact { h with
      phase := rfl
      now := fun _ => rfl
      frameDone := fun _ => rfl
      input := fun _ hd => nomatch hd
      batchCount := nofun }
  | rxByte b =>
    have hp := hopen nofun
    exact (h.syncByte hp b).setPhase (by rwa [syncByte_phase]) nofun
  | set n v =>
    have hp := hopen nofun
    by_cases hv : validSet n v = true
    · simp only [Machine.ruleOf, ruleSet_of_valid _ hv, h.now hp]
      exact ((h.activate hp n v).emitTel _).setPhase hp nofun
    · simp only [Machine.ruleOf, ruleSet_of_invalid _ hv]
      exact (h.emitTel _).setPhase hp nofun
  | setmBegin =>
    exact State.LooksLike.setPhase (s := { s with batchCount := 0 })
      (t := { t with batchCount := 0 }) { h with batchCount := fun _ => rfl } (hopen nofun) fun _ => rfl
  | setmItem n v =>
    have hcount := h.batchCount (phase_of_phaseAfter_setmItem hlegal)
    by_cases hv : validSet n v = true
    · by_cases hc : s.batchCount = 0xFFFFFFFF
      · simp only [Machine.ruleOf, ruleSetmItem_of_full hv hc,
          ruleSetmItem_of_full hv (hcount ▸ hc)]
        exact h.raisePortFault _
      · simp only [Machine.ruleOf, ruleSetmItem_of_valid hv hc,
          ruleSetmItem_of_valid hv (hcount ▸ hc), hcount]
        exact { h.activate (hopen nofun) n v with batchCount := fun _ => rfl }
    · simp only [Machine.ruleOf, ruleSetmItem_of_invalid _ hv]
      exact h.emitTel _
  | setmEnd =>
    have hp := hopen nofun
    simp only [Machine.ruleOf, h.now hp, h.batchCount (phase_of_phaseAfter_setmEnd hlegal)]
    exact (h.emitTel _).setPhase hp nofun
  | clear n =>
    have hp := hopen nofun
    by_cases hv : validCh n = true
    · simp only [Machine.ruleOf, ruleClear_of_valid _ hv, h.now hp]
      exact ((h.deactivate _).emitTel _).setPhase hp nofun
    · simp only [Machine.ruleOf, ruleClear_of_invalid _ hv]
      exact (h.emitTel _).setPhase hp nofun
  | clearAll =>
    have hp := hopen nofun
    simp only [Machine.ruleOf, h.now hp]
    exact (h.deactivateAll.emitTel _).setPhase (by rwa [deactivateAll_eq]) nofun
  | status =>
    have hp := hopen nofun
    simp only [Machine.ruleOf, h.now hp, h.statusList hp]
    exact (h.emitTel _).setPhase hp nofun
  | tickEnd => exact h.tickEnd (hopen nofun)

/-- Both sides answer next states, and these look alike: the relation a bisimulation needs. -/
def NextLookAlike (r q : Result) : Prop :=
  ∃ s t : State, r = .next s ∧ q = .next t ∧ s.LooksLike t

theorem State.LooksLike.exec {s t : State} (h : s.LooksLike t) (hf : s.fault = false) (i : Instr) :
    NextLookAlike (exec i s) (exec i t) := by
  have hf' : t.fault = false := h.fault ▸ hf
  rw [exec_eq_guarded, exec_eq_guarded]
  cases hp : phaseAfter i.op s.phase with
  | none =>
    rw [guarded_of_outOfPhase hf hp, guarded_of_outOfPhase hf' (h.phase ▸ hp)]
    exact ⟨_, _, rfl, rfl, h.raisePortFault .sequence⟩
  | some p =>
    rw [guarded_of_legal hf hp, guarded_of_legal hf' (h.phase ▸ hp)]
    exact ⟨_, _, rfl, rfl, h.ruleOf hp⟩

theorem State.LooksLike.transact {s t : State} (h : s.LooksLike t) (w : PortWords) :
    NextLookAlike (transact w s) (transact w t) := by
  cases hf : s.fault with
  | true =>
    rw [transact_of_fault hf, transact_of_fault (h.fault ▸ hf)]
    exact ⟨s, t, rfl, rfl, h⟩
  | false =>
    cases hd : decode w with
    | error e =>
      rw [transact_of_error hf hd, transact_of_error (h.fault ▸ hf) hd]
      exact ⟨_, _, rfl, rfl, h.raisePortFault _⟩
    | ok i =>
      rw [transact_of_decode s hd, transact_of_decode t hd]
      exact h.exec hf i

theorem State.LooksLike.perform {s t : State} (h : s.LooksLike t) (a : HostAction) :
    NextLookAlike (perform a s) (perform a t) := by
  cases a with
  | transact w => exact h.transact w
  | assertReset =>
    refine ⟨_, _, rfl, rfl, ?_⟩
    rw [State.assertReset, State.assertReset, h.cfg, h.host]
    exact .refl _
  | drainTel => exact ⟨_, _, rfl, rfl, { h with tel := congrArg List.tail h.tel }⟩
  | drainFtx => exact ⟨_, _, rfl, rfl, { h with ftx := congrArg List.tail h.ftx }⟩

theorem State.LooksLike.step {s t : State} (h : s.LooksLike t) :
    NextLookAlike (step s) (step t) := by
  cases hs : s.host with
  | nil =>
    have ht : t.host = [] := h.host ▸ hs
    exact ⟨s, t, by simp [Machine.step, takeAction, hs],
      by simp [Machine.step, takeAction, ht], h⟩
  | cons a rest =>
    rw [step_of_host hs, step_of_host (h.host ▸ hs)]
    exact (h.setHost rest).perform a

theorem State.LooksLike.runFor {s t : State} (h : s.LooksLike t) (n : Nat) :
    NextLookAlike (runFor n s) (runFor n t) := by
  induction n generalizing s t with
  | zero => exact ⟨s, t, rfl, rfl, h⟩
  | succ n ih =>
    obtain ⟨s', t', hs, ht, h'⟩ := h.step
    rw [runFor_succ n hs, runFor_succ n ht]
    exact ih h'

theorem State.LooksLike.observe {s t : State} (h : s.LooksLike t) : s.observe = t.observe := by
  simp only [State.observe, h.tel, h.ftx, h.fault, h.faultCode]

/-- Settles O56: `LooksLike` is a bisimulation of the steps, and it fixes what is observed. -/
theorem hiddenStateIsUnobservable : Obligations.HiddenStateIsUnobservable := by
  intro n s t h
  obtain ⟨s', t', hs, ht, h'⟩ := h.runFor n
  exact ⟨s', t', hs, ht, h'.observe⟩

end Sys2Proof.Machine
end

section
/-! The proofs about the serial link, the port and the queues (20_memory.md). -/

namespace Sys2Proof.Machine

/-! ### The queues -/

/-- A rule changes `tel` only by appending to it (R58, R65). -/
theorem tel_prefix_ruleOf (i : Instr) (s : State) : s.tel <+: (ruleOf i s).tel := by
  by_cases hi : i = .tickEnd
  · subst hi
    rw [ruleOf_tickEnd_eq]
    exact (List.prefix_append _ _).trans (List.prefix_append _ _)
  · obtain ⟨l, hl, -⟩ := ruleOf_tel_of_ne_tickEnd hi s
    exact ⟨l, hl.symm⟩

/-- A rule changes `ftx` only by appending to it (R58, R65). -/
theorem ftx_prefix_ruleOf (i : Instr) (s : State) : s.ftx <+: (ruleOf i s).ftx := by
  cases i with
  | rxByte b => rw [show (ruleOf (.rxByte b) s).ftx = s.ftx from syncByte_ftx s b]
  | tickEnd => rw [ruleOf_tickEnd_eq]; exact List.prefix_append _ _
  | _ => rw [ruleOf_frame_of_keepsLink rfl s]

/-- Settles O55: of the three things a transaction can do only a rule writes the queues, and every
rule appends. -/
theorem transactionsOnlyAppend : Obligations.TransactionsOnlyAppend := by
  intro w s t h
  obtain ⟨-, rfl⟩ | ⟨-, c, rfl⟩ | ⟨-, i, -, -, -, rfl⟩ := transact_cases h
  · exact ⟨List.prefix_rfl, List.prefix_rfl⟩
  · exact ⟨List.prefix_rfl, List.prefix_rfl⟩
  · exact ⟨tel_prefix_ruleOf i s, ftx_prefix_ruleOf i s⟩

/-- Settles O14: the step takes the drain from the host's list and does only that. -/
theorem drainOnlyRemovesOldest : Obligations.DrainOnlyRemovesOldest := by
  refine fun s rest => ⟨fun h => ?_, fun h => ?_⟩ <;> rw [step_of_host h, List.drop_one] <;> rfl

/-! ### The byte-wide link -/

/-- Byte `j` of a word on the link is its bits `8*j + 7` to `8*j` (R54). -/
theorem getElem?_wordBytes (w : Word) (j : Fin 4) :
    (wordBytes w)[j.val]? = some (w.extractLsb' (8 * j.val) 8) := by
  match j with
  | 0 | 1 | 2 | 3 => rfl

/-- The bytes of word `k` are the `k`th four of the link (R54; log entry 13). -/
theorem getElem?_toBytes (t : PortWords) (k : Fin 3) (j : Fin 4) :
    t.toBytes[4 * k.val + j.val]? = (wordBytes #v[t.w0, t.w1, t.w2][k])[j.val]? := by
  match k, j with
  | 0, 0 | 0, 1 | 0, 2 | 0, 3 => rfl
  | 1, 0 | 1, 1 | 1, 2 | 1, 3 => rfl
  | 2, 0 | 2, 1 | 2, 2 | 2, 3 => rfl

theorem ofBytes_toBytes (t : PortWords) : PortWords.ofBytes t.toBytes = some t := by
  simp only [PortWords.toBytes, wordBytes, List.cons_append, List.nil_append, PortWords.ofBytes,
    wordOfBytes_bytes]

/-- Settles O5. -/
theorem serialisedTransactionReadBack : Obligations.SerialisedTransactionReadBack :=
  fun t => ⟨rfl, fun k j => (getElem?_toBytes t k j).trans (getElem?_wordBytes _ j),
    ofBytes_toBytes t⟩

/-! ### The port -/

/-- Settles O6: the step performs the host's action, and a decoded transaction runs its meaning. -/
theorem stepRunsDecodedTransaction : Obligations.StepRunsDecodedTransaction :=
  fun _ _ _ _ hhost hdecode => (step_of_host hhost).trans (transact_of_decode _ hdecode)

end Sys2Proof.Machine
end

section
/-! The proofs about the port's encoding (30_encoding.md R70 to R75): the fields of the first word, when
words decode, the opcode table's rows, and the two round trips. -/

namespace Sys2Proof

/-! ### The first word -/

theorem packW0_inj {r r' : BitVec 16} {b b' o o' : Byte} :
    packW0 r b o = packW0 r' b' o' ↔ r = r' ∧ b = b' ∧ o = o' := by
  constructor
  · intro h
    have hr := congrArg (BitVec.extractLsb' 16 16) h
    have hb := congrArg (BitVec.extractLsb' 8 8) h
    have ho := congrArg (BitVec.extractLsb' 0 8) h
    simp only [packW0_rsv, packW0_b, packW0_op] at hr hb ho
    exact ⟨hr, hb, ho⟩
  · rintro ⟨rfl, rfl, rfl⟩
    rfl

/-- A mask over `W0` is a mask over each of its fields. -/
theorem packW0_and (r r' : BitVec 16) (b b' o o' : Byte) :
    packW0 r b o &&& packW0 r' b' o' = packW0 (r &&& r') (b &&& b') (o &&& o') := by
  rw [← packW0_fields (packW0 r b o &&& packW0 r' b' o')]
  simp only [BitVec.extractLsb'_and, packW0_rsv, packW0_b, packW0_op]

/-- `W0` is made of the three fields of R70. -/
theorem PortWords.w0_eq (t : PortWords) : t.w0 = packW0 t.rsvField t.bField t.opField :=
  (packW0_fields t.w0).symm

/-! ### The fields an opcode does not use -/

/-- `A` is an operand of the opcode (R72). -/
def Op.readsA : Op → Bool
  | .tickBegin | .set | .setmItem | .clear => true
  | _ => false

/-- `V` is an operand of the opcode (R72). -/
def Op.readsV : Op → Bool
  | .set | .setmItem => true
  | _ => false

/-- `RSV` is zero, and so is each of `B`, `A` and `V` that is not an operand (R72, R75). -/
theorem zeroFieldsOk_iff {op : Op} {t : PortWords} :
    op.zeroFieldsOk t = true ↔ t.rsvField = 0 ∧ (op ≠ .rxByte → t.bField = 0)
      ∧ (op.readsA = false → t.w1 = 0) ∧ (op.readsV = false → t.w2 = 0) := by
  cases op <;> simp [Op.zeroFieldsOk, Op.readsA, Op.readsV] <;> tauto

/-! ### When words decode -/

/-- The codes that name no opcode are those of R74. -/
theorem ofCode_eq_none_iff {c : Byte} : Op.ofCode c = none ↔ c = 0 ∨ 0x0B ≤ c.toNat := by
  rw [← BitVec.toNat_inj]
  unfold Op.ofCode
  split
  case h_11 => simp_all; omega
  all_goals simp_all

@[simp] theorem op_assemble (op : Op) (t : PortWords) : (op.assemble t).op = op := by
  cases op <;> rfl

theorem decode_of_opField {t : PortWords} {op : Op} (h : t.opField = op.code) :
    decode t = if op.zeroFieldsOk t then .ok (op.assemble t) else .error .reservedField := by
  simp [decode, h]

theorem decode_of_illegal {t : PortWords} (h : t.opField = 0 ∨ 0x0B ≤ t.opField.toNat) :
    decode t = .error .illegalOpcode := by
  simp [decode, ofCode_eq_none_iff.2 h]

theorem opField_cases (t : PortWords) :
    (t.opField = 0 ∨ 0x0B ≤ t.opField.toNat) ∨ ∃ op : Op, t.opField = op.code := by
  cases h : Op.ofCode t.opField with
  | none => exact .inl (ofCode_eq_none_iff.1 h)
  | some op => exact .inr ⟨op, (code_of_ofCode h).symm⟩

/-- Words decode to a transaction when their opcode is its own (R72), the fields that its opcode does
not use are zero (R75), and its operands are assembled from the others (R71). -/
theorem decode_eq_ok_iff {t : PortWords} {i : Instr} :
    decode t = .ok i ↔ t.opField = i.op.code ∧ i.op.zeroFieldsOk t = true ∧ i.op.assemble t = i := by
  constructor
  · intro h
    obtain hill | ⟨op, hop⟩ := opField_cases t
    · rw [decode_of_illegal hill] at h
      cases h
    · rw [decode_of_opField hop] at h
      split at h
      next hz => cases h; simp [hop, hz]
      next => cases h
  · rintro ⟨hop, hz, hi⟩
    rw [decode_of_opField hop, if_pos hz, hi]

/-! ### The two round trips -/

theorem encode_fields (i : Instr) : Laws.EncodesItsOpcode.Statement i := by
  cases i with
  | tickBegin now => exact Laws.EncodesItsOpcode.tickBegin now
  | rxByte b => exact Laws.EncodesItsOpcode.rxByte b
  | set n v => exact Laws.EncodesItsOpcode.set n v
  | setmBegin => exact Laws.EncodesItsOpcode.setmBegin
  | setmItem n v => exact Laws.EncodesItsOpcode.setmItem n v
  | setmEnd => exact Laws.EncodesItsOpcode.setmEnd
  | clear n => exact Laws.EncodesItsOpcode.clear n
  | clearAll => exact Laws.EncodesItsOpcode.clearAll
  | status => exact Laws.EncodesItsOpcode.status
  | tickEnd => exact Laws.EncodesItsOpcode.tickEnd

/-- Operand assembly reads back what the encoding packed, the `i32` operands by sign extension (R71). -/
theorem assemble_encode {i : Instr} (h : i.wf = true) : i.op.assemble (encode i) = i := by
  cases i with
  | tickBegin | setmBegin | setmEnd | clearAll | status | tickEnd => rfl
  | rxByte b => exact congrArg Instr.rxByte (packW0_b 0 b _)
  | set n v | setmItem n v =>
    obtain ⟨hn, hv⟩ := Bool.and_eq_true_iff.1 h
    simp only [encode, Instr.op, Op.assemble, toInt_ofInt_of_isI32 hn, toInt_ofInt_of_isI32 hv]
  | clear n => exact congrArg Instr.clear (toInt_ofInt_of_isI32 h)

theorem wf_assemble (op : Op) (t : PortWords) : (op.assemble t).wf = true := by
  cases op with
  | set | setmItem | clear => simp [Op.assemble, Instr.wf, isI32_toInt]
  | _ => rfl

/-- Packing the assembled operands gives back the words: what is not an operand is zero (R75). -/
theorem encode_assemble {op : Op} {t : PortWords} (hop : t.opField = op.code)
    (hz : op.zeroFieldsOk t = true) : encode (op.assemble t) = t := by
  obtain ⟨hrsv, hb, ha, hv⟩ := zeroFieldsOk_iff.1 hz
  calc encode (op.assemble t)
      = ⟨packW0 t.rsvField t.bField t.opField, t.w1, t.w2⟩ := by
        clear hz
        cases op <;> simp_all [encode, Op.assemble, Instr.op, Op.readsA, Op.readsV]
    _ = t := by rw [← t.w0_eq]

/-- Settles O1: the encoding meets the three conditions for decoding. -/
theorem decodeOfEncode : Obligations.DecodeOfEncode := fun i h =>
  have ⟨hop, hz⟩ := encode_fields i
  decode_eq_ok_iff.2 ⟨hop, hz, assemble_encode h⟩

/-- Settles O2: decoding fixes every field of the words, so packing them again gives them back. -/
theorem encodeOfDecode : Obligations.EncodeOfDecode := by
  intro t i h
  obtain ⟨hop, hz, hi⟩ := decode_eq_ok_iff.1 h
  have henc := encode_assemble hop hz
  have hwf := wf_assemble i.op t
  rw [hi] at henc hwf
  exact ⟨henc, hwf⟩

/-- Settles O4: each triple is evaluated, fields, sign extension and all. -/
theorem decodedExampleWords : Obligations.DecodedExampleWords :=
  ⟨rfl, rfl, rfl, rfl, rfl, rfl, rfl⟩

/-! ### The opcode table -/

/-- The row of an opcode, put together from its fields: `OP` is its code, and every other field that
is not an operand is zero (R72). -/
def tableRow (op : Op) : OpcodeRow where
  op := op
  matchBits := packW0 0 0 op.code
  mask := packW0 0xFFFF (if op = .rxByte then 0 else 0xFF) 0xFF
  w1Zero := !op.readsA
  w2Zero := !op.readsV

theorem mem_opcodeRows_iff {r : OpcodeRow} : r ∈ opcodeRows ↔ r = tableRow r.op := by
  have hrows : opcodeRows = [Op.tickBegin, .rxByte, .set, .setmBegin, .setmItem, .setmEnd, .clear,
    .clearAll, .status, .tickEnd].map tableRow := by decide
  rw [hrows, List.mem_map]
  constructor
  · rintro ⟨op, -, rfl⟩
    rfl
  · exact fun h => ⟨r.op, by cases r.op <;> decide, h.symm⟩

/-- A row's match and mask say what its opcode and its zero fields say (R72, R75). -/
theorem admits_tableRow_iff {op : Op} {t : PortWords} :
    (tableRow op).admits t = true ↔ t.opField = op.code ∧ op.zeroFieldsOk t = true := by
  have hr : t.rsvField &&& 0xFFFF = t.rsvField := BitVec.and_allOnes
  have ho : t.opField &&& 0xFF = t.opField := BitVec.and_allOnes
  have hb : t.bField &&& (if op = .rxByte then 0 else 0xFF) = 0
      ↔ (op ≠ .rxByte → t.bField = 0) := by
    split
    next h => simp [h]
    next h => rw [show t.bField &&& 0xFF = t.bField from BitVec.and_allOnes]; simp [h]
  simp only [OpcodeRow.admits, tableRow, Bool.and_eq_true, beq_iff_eq, zeroFieldsOk_iff]
  rw [t.w0_eq, packW0_and, packW0_inj, hr, ho, hb]
  simp only [Bool.or_eq_true, beq_iff_eq, Bool.not_not, ← Bool.not_eq_true, imp_iff_or_not]
  tauto

theorem admits_iff_decode {r : OpcodeRow} (hr : r ∈ opcodeRows) {t : PortWords} :
    r.admits t = true ↔ decode t = .ok (r.op.assemble t) := by
  rw [mem_opcodeRows_iff.1 hr, admits_tableRow_iff, decode_eq_ok_iff]
  simp [tableRow]

/-- Settles O3: an opcode has one row, and that row admits what the decoder accepts for it. -/
theorem decodeAgreesWithOpcodeTable : Obligations.DecodeAgreesWithOpcodeTable := by
  intro t op
  constructor
  · rintro ⟨i, hdecode, rfl⟩
    obtain ⟨hop, hz, -⟩ := decode_eq_ok_iff.1 hdecode
    exact ⟨tableRow i.op, mem_opcodeRows_iff.2 rfl, rfl, admits_tableRow_iff.2 ⟨hop, hz⟩⟩
  · rintro ⟨r, hr, rfl, hadmits⟩
    exact ⟨_, (admits_iff_decode hr).1 hadmits, op_assemble r.op t⟩

end Sys2Proof
end

section
/-! The proofs about the port's checks, the phase table, SetMany and the grammar of streams
(30_encoding.md R77 to R81). -/

namespace Sys2Proof.Machine

/-! ### The checks in their order (R77) -/

theorem exec_of_outOfPhase {i : Instr} {s : State} (hf : s.fault = false)
    (hp : phaseAfter i.op s.phase = none) : exec i s = .next (s.raisePortFault .sequence) := by
  rw [exec_eq_guarded]; exact guarded_of_outOfPhase hf hp

/-- Words whose opcode is legal and that no row of the table admits have a reserved field set (R75). -/
theorem decode_of_find?_none {t : PortWords} (hop : ¬ (t.opField = 0 ∨ 0x0B ≤ t.opField.toNat))
    (h : opcodeRows.find? (fun r => r.admits t) = none) : decode t = .error .reservedField := by
  obtain ⟨op, hcode⟩ := (opField_cases t).resolve_left hop
  have hz : ¬ op.zeroFieldsOk t = true := fun hz =>
    List.find?_eq_none.1 h (tableRow op) (mem_opcodeRows_iff.2 rfl)
      (admits_tableRow_iff.2 ⟨hcode, hz⟩)
  rw [decode_of_opField hcode, if_neg hz]

theorem decode_of_find?_some {t : PortWords} {r : OpcodeRow}
    (h : opcodeRows.find? (fun r => r.admits t) = some r) : decode t = .ok (r.op.assemble t) :=
  (admits_iff_decode (List.mem_of_find?_eq_some h)).1
    (List.find?_some (p := fun r : OpcodeRow => r.admits t) h)

/-- Settles O7: the port's checks one by one, the decoder's two errors being read off the opcode and off
the table. -/
theorem checksInOrder : Obligations.ChecksInOrder := by
  intro s t rest hhost s1 code
  rw [step_of_host hhost]
  change transact t s1 = _
  by_cases hf : s.fault = true
  · rw [if_pos hf]
    exact transact_of_fault hf
  have hf1 : s1.fault = false := Bool.not_eq_true _ ▸ hf
  rw [if_neg hf]
  by_cases hop : t.opField = 0 ∨ 0x0B ≤ t.opField.toNat
  · rw [transact_of_error hf1 (decode_of_illegal hop)]
    exact (if_pos hop).symm
  refine Eq.trans ?_ (if_neg hop).symm
  cases hrow : opcodeRows.find? (fun r => r.admits t) with
  | none => exact transact_of_error hf1 (decode_of_find?_none hop hrow)
  | some r =>
    rw [transact_of_decode s1 (decode_of_find?_some hrow)]
    by_cases hp : phaseAfter r.op s.phase = none
    · refine Eq.trans ?_ (if_pos hp).symm
      exact exec_of_outOfPhase hf1 (by rw [op_assemble]; exact hp)
    · exact (if_neg hp).symm

/-! ### The phase table and its enforcement (R81) -/

/-- The phase that a row of the table leads to, whichever of its phases it starts in (R81). -/
def landing : Op → Phase
  | .tickBegin | .rxByte => .rx
  | .set | .clear | .clearAll | .status | .setmEnd => .cmd
  | .setmBegin | .setmItem => .batch
  | .tickEnd => .idle

theorem eq_landing_of_phaseAfter {op : Op} {p q : Phase} (h : phaseAfter op p = some q) :
    q = landing op := by
  cases op <;> cases p <;> cases h <;> rfl

theorem ruleSetmItem_phase (n v : Int) (s : State) : (State.ruleSetmItem n v s).phase = s.phase := by
  by_cases hv : validSet n v = true
  · by_cases hc : s.batchCount = 0xFFFFFFFF
    · rw [ruleSetmItem_of_full hv hc, State.raisePortFault_phase]
    · rw [ruleSetmItem_of_valid hv hc]; rfl
  · rw [ruleSetmItem_of_invalid s hv, State.emitTel_phase]

/-- A rule run in phase leaves the phase of the table, also where it raised a port fault. -/
theorem ruleOf_phase {i : Instr} {s : State} {p : Phase} (h : phaseAfter i.op s.phase = some p) :
    (ruleOf i s).phase = p := by
  rw [eq_landing_of_phaseAfter h]
  cases i with
  | setmItem n v => exact (ruleSetmItem_phase n v s).trans (phase_of_phaseAfter_setmItem h)
  | _ => rfl

/-- Only SETM_ITEM's rule can raise a port fault (R145). -/
theorem ruleOf_fault_of_ne_setmItem {i : Instr} (h : i.op ≠ .setmItem) (s : State) :
    (ruleOf i s).fault = s.fault := by
  cases i with
  | setmItem => exact absurd rfl h
  | tickBegin | setmBegin | setmEnd | status => rfl
  | rxByte b => exact syncByte_fault s b
  | clearAll => simp [ruleOf, deactivateAll_eq]
  | tickEnd => rw [ruleOf_tickEnd_eq]
  | set n v =>
    by_cases hv : validSet n v = true
    · rw [ruleOf, ruleSet_of_valid s hv]; rfl
    · rw [ruleOf, ruleSet_of_invalid s hv]; rfl
  | clear n =>
    by_cases hv : validCh n = true
    · rw [ruleOf, ruleClear_of_valid s hv]; rfl
    · rw [ruleOf, ruleClear_of_invalid s hv]; rfl

/-- The phase table, cell by cell. -/
theorem phaseAfter_eq (op : Op) (p : Phase) : phaseAfter op p =
    if op = .tickBegin then (if p = .idle then some .rx else none)
    else if op = .rxByte then (if p = .rx then some .rx else none)
    else if op = .set ∨ op = .clear ∨ op = .clearAll ∨ op = .status then
      (if p = .rx ∨ p = .cmd then some .cmd else none)
    else if op = .setmBegin then (if p = .rx ∨ p = .cmd then some .batch else none)
    else if op = .setmItem then (if p = .batch then some .batch else none)
    else if op = .setmEnd then (if p = .batch then some .cmd else none)
    else (if p = .rx ∨ p = .cmd then some .idle else none) := by
  cases op <;> cases p <;> rfl

/-- Settles O9: a rule run in phase lands where the table says, and only SETM_ITEM's, which lands where
it starts, can fault. -/
theorem phaseTableEnforced : Obligations.PhaseTableEnforced := by
  refine ⟨phaseAfter_eq, fun i s hf => ⟨fun hp => exec_of_outOfPhase hf hp, fun p hp => ?_⟩⟩
  refine ⟨ruleOf i s, exec_of_legal hf hp, fun _ => ruleOf_phase hp, fun hfault => ?_⟩
  have hop : i.op = .setmItem := by
    by_contra hop
    rw [ruleOf_fault_of_ne_setmItem hop, hf] at hfault
    cases hfault
  rw [ruleOf_phase hp]
  rw [hop] at hp
  exact ⟨(eq_landing_of_phaseAfter hp).trans (phase_of_phaseAfter_setmItem hp).symm, hop⟩

/-! ### Lists of transactions -/

theorem execAll_cons {i : Instr} {s u : State} (h : exec i s = .next u) (is : List Instr) :
    execAll (i :: is) s = execAll is u := by
  rw [execAll, h]

theorem execAll_append {is : List Instr} {s u : State} (h : execAll is s = .next u)
    (js : List Instr) : execAll (is ++ js) s = execAll js u := by
  induction is generalizing s with
  | nil => cases h; rfl
  | cons i is ih =>
    obtain ⟨v, hv⟩ := exec_next i s
    rw [execAll_cons hv] at h
    rw [List.cons_append, execAll_cons hv, ih h]

/-- The fault is sticky (R198). -/
theorem execAll_of_fault {s : State} (h : s.fault = true) (is : List Instr) :
    execAll is s = .next s := by
  induction is with
  | nil => rfl
  | cons i is ih => rw [execAll_cons (exec_of_fault h), ih]

/-! ### SetMany (R145, R146) -/

/-- What an element of a SetMany writes to the table: its record, if it is valid (R145). -/
def writeItem (now : Time) (ov : Vector OvRecord 16) (item : Int × Int) : Vector OvRecord 16 :=
  if validSet item.1 item.2 then ov.set (chanIndex item.1) ⟨true, truncChan item.2, now⟩ else ov

/-- What an element of a SetMany reports: its ERROR record, if it is invalid (R145). -/
def itemError (item : Int × Int) : Option Event :=
  if validSet item.1 item.2 then none else some (rejection .setmItem item.1 item.2)

/-- The valid elements, which a SetMany counts (R145). -/
def countValid (items : List (Int × Int)) : Nat := items.countP fun item => validSet item.1 item.2

/-- An open SetMany once `items` have run: each has written or reported, and the valid ones are
counted. -/
def State.afterItems (s : State) (items : List (Int × Int)) : State :=
  { s with
    ov := items.foldl (writeItem s.now) s.ov
    batchCount := s.batchCount + BitVec.ofNat 32 (countValid items)
    tel := s.tel ++ items.filterMap itemError }

@[simp] theorem State.afterItems_nil (s : State) : s.afterItems [] = s := by
  simp [State.afterItems, countValid]

theorem countValid_cons (item : Int × Int) (items : List (Int × Int)) :
    countValid (item :: items) = countValid [item] + countValid items := by
  simp only [countValid, List.countP_cons, List.countP_nil]
  omega

theorem State.afterItems_cons (s : State) (item : Int × Int) (items : List (Int × Int)) :
    s.afterItems (item :: items) = (s.afterItems [item]).afterItems items := by
  have htel : (item :: items).filterMap itemError
      = [item].filterMap itemError ++ items.filterMap itemError := List.filterMap_append (l := [item])
  simp only [State.afterItems, countValid_cons item items, BitVec.ofNat_add, BitVec.add_assoc, htel,
    List.append_assoc, List.foldl_cons, List.foldl_nil]

/-- SETM_ITEM while its count has room (R145). -/
theorem ruleSetmItem_eq {s : State} (hc : s.batchCount ≠ 0xFFFFFFFF) (n v : Int) :
    State.ruleSetmItem n v s = s.afterItems [(n, v)] := by
  by_cases hv : validSet n v = true
  · rw [ruleSetmItem_of_valid hv hc]
    simp [State.afterItems, writeItem, itemError, countValid, hv, State.activate, State.setRecord]
  · rw [ruleSetmItem_of_invalid s hv]
    simp [State.afterItems, writeItem, itemError, countValid, hv, State.emitTel]

/-- One item takes at most one of the count's room. -/
theorem batchCount_afterItems_le (s : State) (item : Int × Int) :
    (s.afterItems [item]).batchCount.toNat ≤ s.batchCount.toNat + 1 := by
  have hle : countValid [item] ≤ 1 := List.countP_le_length
  have := Nat.mod_le (s.batchCount.toNat + countValid [item]) (2 ^ 32)
  simp only [State.afterItems, BitVec.toNat_add, BitVec.toNat_ofNat, Nat.add_mod_mod]
  omega

/-- The elements of an open SetMany, where the count has room for them all. -/
theorem execAll_items (items : List (Int × Int)) {s : State} (hf : s.fault = false)
    (hp : s.phase = .batch) (hroom : s.batchCount.toNat + items.length < 2 ^ 32) :
    execAll (items.map fun item => .setmItem item.1 item.2) s = .next (s.afterItems items) := by
  induction items generalizing s with
  | nil => rw [State.afterItems_nil]; rfl
  | cons item items ih =>
    rw [List.length_cons] at hroom
    have hc : s.batchCount ≠ 0xFFFFFFFF := by
      intro hc
      rw [hc, show (0xFFFFFFFF : Word).toNat = 2 ^ 32 - 1 from rfl] at hroom
      omega
    have hlegal : phaseAfter .setmItem s.phase = some .batch := by rw [hp]; rfl
    have hexec : exec (.setmItem item.1 item.2) s = .next (s.afterItems [item]) :=
      (exec_of_legal (i := .setmItem item.1 item.2) hf hlegal).trans
        (congrArg _ (ruleSetmItem_eq hc item.1 item.2))
    have hle := batchCount_afterItems_le s item
    rw [List.map_cons, execAll_cons hexec, State.afterItems_cons s item items]
    exact ih hf hp (by omega)

/-- The two phases in which a command may stand (R81). -/
def Phase.takesCommand (p : Phase) : Prop := p = .rx ∨ p = .cmd

/-- A whole SetMany (R83, R144 to R146): its elements from a count of zero, and its one success
response. -/
theorem execAll_setMany {s : State} (hf : s.fault = false) (hp : s.phase.takesCommand)
    {items : List (Int × Int)} (hlen : items.length < 2 ^ 32) :
    execAll (setMany items) s = .next
      (ruleOf .setmEnd ((ruleOf .setmBegin s).afterItems items)) := by
  have hbegin : exec .setmBegin s = .next (ruleOf .setmBegin s) := by
    have hlegal : phaseAfter .setmBegin s.phase = some .batch := by
      rcases hp with hp | hp <;> rw [hp] <;> rfl
    exact exec_of_legal hf hlegal
  have hitems := execAll_items items (s := ruleOf .setmBegin s) hf rfl
    (by simpa [ruleOf, State.setPhase] using hlen)
  rw [setMany, List.append_assoc, List.singleton_append, execAll_cons hbegin, execAll_append hitems]
  have hfend : ((ruleOf .setmBegin s).afterItems items).fault = false := hf
  exact execAll_cons (exec_of_legal (i := .setmEnd) (p := .cmd) hfend rfl) []

/-! #### What a SetMany leaves in the table, and reports -/

/-- The item is valid and for channel `i` (R140). -/
def writesTo (i : Fin 16) (item : Int × Int) : Bool :=
  decide (item.1 = (i.val : Int) + 1 ∧ 0 ≤ item.2 ∧ item.2 ≤ 2047)

theorem writesTo_iff {i : Fin 16} {item : Int × Int} :
    writesTo i item = true ↔ validSet item.1 item.2 = true ∧ chanIndex item.1 = i := by
  simp only [writesTo, decide_eq_true_eq, validSet, Bool.and_eq_true, validVal, validCh_iff]
  constructor
  · rintro ⟨hn, hv⟩
    exact ⟨⟨⟨i, hn⟩, hv⟩, hn ▸ chanIndex_chanNumber i⟩
  · rintro ⟨⟨⟨j, hn⟩, hv⟩, hi⟩
    rw [hn, chanIndex_chanNumber] at hi
    exact ⟨hi ▸ hn, hv⟩

theorem getElem_writeItem (now : Time) (ov : Vector OvRecord 16) (item : Int × Int) (i : Fin 16) :
    (writeItem now ov item)[i]
      = if writesTo i item then ⟨true, truncChan item.2, now⟩ else ov[i] := by
  by_cases hv : validSet item.1 item.2 = true
  · rw [writeItem, if_pos hv, getElem_set_record]
    simp only [writesTo_iff, hv, true_and]
  · rw [writeItem, if_neg hv, if_neg fun hw => hv (writesTo_iff.1 hw).1]

/-- The last valid item for a channel is the one that stays in its record (R79). -/
theorem getElem_foldl_writeItem (now : Time) (ov : Vector OvRecord 16) (items : List (Int × Int))
    (i : Fin 16) :
    (items.foldl (writeItem now) ov)[i]
      = ((items.filter (writesTo i)).getLast?.map
          fun item => (⟨true, truncChan item.2, now⟩ : OvRecord)).getD ov[i] := by
  induction items using List.reverseRecOn with
  | nil => rfl
  | append_singleton items item ih =>
    rw [List.foldl_append, List.foldl_cons, List.foldl_nil, getElem_writeItem, List.filter_append]
    by_cases hw : writesTo i item = true
    · simp [hw]
    · simp [hw, ih]

/-- The channel is checked first, then the value (R140). -/
theorem itemError_eq (item : Int × Int) : itemError item =
    if ¬ (1 ≤ item.1 ∧ item.1 ≤ 16) then some (.error .invalidChannel 0x05 item.1)
    else if ¬ (0 ≤ item.2 ∧ item.2 ≤ 2047) then some (.error .invalidValue 0x05 item.2)
    else none := by
  by_cases hch : 1 ≤ item.1 ∧ item.1 ≤ 16
  · by_cases hval : 0 ≤ item.2 ∧ item.2 ≤ 2047 <;>
      simp [itemError, validSet, validCh, validVal, rejection, hch, hval, Op.code]
  · simp [itemError, validSet, validCh, rejection, hch, Op.code]

/-- Settles O41: the run of the whole SetMany, read record by record and event by event. -/
theorem setManyAppliesEachElement : Obligations.SetManyAppliesEachElement := by
  intro s items hf hp hlen
  refine ⟨_, execAll_setMany hf hp hlen, rfl, hf, fun i => ?_, ?_⟩
  · refine (getElem_foldl_writeItem s.now s.ov items i).trans ?_
    split
    next p hlast => rw [show (items.filter (writesTo i)).getLast? = some p from hlast]; rfl
    next hlast => rw [show (items.filter (writesTo i)).getLast? = none from hlast]; rfl
  · change s.tel ++ items.filterMap itemError ++ _ = _
    rw [show itemError = _ from funext itemError_eq]
    rfl

/-! ### The grammar of streams (R78) -/

/-- From a phase of `P` and without a fault, the transactions run without a fault to a phase of `Q`. -/
def Leads (P : Phase → Prop) (is : List Instr) (Q : Phase → Prop) : Prop :=
  ∀ s : State, s.fault = false → P s.phase →
    ∃ t, execAll is s = .next t ∧ t.fault = false ∧ Q t.phase

theorem Leads.nil (P : Phase → Prop) : Leads P [] P :=
  fun s hf hp => ⟨s, rfl, hf, hp⟩

theorem Leads.append {P Q R : Phase → Prop} {is js : List Instr} (h : Leads P is Q)
    (h' : Leads Q js R) : Leads P (is ++ js) R := by
  intro s hf hp
  obtain ⟨u, hu, hfu, hpu⟩ := h s hf hp
  rw [execAll_append hu]
  exact h' u hfu hpu

theorem Leads.mono {P P' Q Q' : Phase → Prop} {is : List Instr} (h : Leads P is Q)
    (hP : ∀ p, P' p → P p) (hQ : ∀ p, Q p → Q' p) : Leads P' is Q' := by
  intro s hf hp
  obtain ⟨t, ht, hft, hpt⟩ := h s hf (hP _ hp)
  exact ⟨t, ht, hft, hQ _ hpt⟩

theorem Leads.flatMap {α : Type} {P : Phase → Prop} {f : α → List Instr} {l : List α}
    (h : ∀ a ∈ l, Leads P (f a) P) : Leads P (l.flatMap f) P := by
  induction l with
  | nil => exact .nil P
  | cons a l ih =>
    rw [List.flatMap_cons]
    exact (h a List.mem_cons_self).append (ih fun b hb => h b (List.mem_cons_of_mem a hb))

/-- A transaction that the phase table allows in every phase of `P`; only SETM_ITEM may fault there. -/
theorem Leads.single {P : Phase → Prop} {i : Instr} (hi : i.op ≠ .setmItem)
    (h : ∀ p, P p → phaseAfter i.op p = some (landing i.op)) :
    Leads P [i] (· = landing i.op) := by
  intro s hf hp
  have hlegal := h s.phase hp
  exact ⟨ruleOf i s, execAll_cons (exec_of_legal hf hlegal) [],
    (ruleOf_fault_of_ne_setmItem hi s).trans hf, ruleOf_phase hlegal⟩

theorem Leads.command {i : Instr} (hi : i.op ≠ .setmItem)
    (hrx : phaseAfter i.op .rx = some (landing i.op))
    (hcmd : phaseAfter i.op .cmd = some (landing i.op)) :
    Leads Phase.takesCommand [i] (· = landing i.op) :=
  .single hi (by rintro p (rfl | rfl) <;> assumption)

theorem leads_setMany {items : List (Int × Int)} (h : items.length < 2 ^ 32) :
    Leads Phase.takesCommand (setMany items) (· = .cmd) :=
  fun _ hf hp => ⟨_, execAll_setMany hf hp h, hf, rfl⟩

theorem leads_rxBytes (bs : List Byte) : Leads (· = .rx) (rxBytes bs) (· = .rx) := by
  rw [rxBytes, List.map_eq_flatMap]
  exact .flatMap fun b _ => .single (i := .rxByte b) nofun fun p hp => hp ▸ rfl

theorem leads_command {c : GrammarCommand} (h : ∀ items, c = .batch items → items.length < 2 ^ 32) :
    Leads Phase.takesCommand c.instrs Phase.takesCommand := by
  have hcmd : Leads Phase.takesCommand c.instrs (· = .cmd) := by
    cases c with
    | batch items => exact leads_setMany (h items rfl)
    | set n v => exact .command (i := .set n v) nofun rfl rfl
    | clear n => exact .command (i := .clear n) nofun rfl rfl
    | clearAll => exact .command (i := .clearAll) nofun rfl rfl
    | status => exact .command (i := .status) nofun rfl rfl
  exact hcmd.mono (fun _ hp => hp) fun _ hp => .inr hp

theorem leads_tick {k : GrammarTick}
    (h : ∀ items, GrammarCommand.batch items ∈ k.commands → items.length < 2 ^ 32) :
    Leads (· = .idle) k.instrs (· = .idle) := by
  have hbegin : Leads (· = .idle) [.tickBegin k.time] (· = .rx) :=
    .single (i := .tickBegin k.time) nofun fun p hp => hp ▸ rfl
  have hbytes : Leads (· = .rx) (rxBytes k.bytes) Phase.takesCommand :=
    (leads_rxBytes k.bytes).mono (fun _ hp => hp) fun _ hp => .inl hp
  have hcommands : Leads Phase.takesCommand (k.commands.flatMap GrammarCommand.instrs)
      Phase.takesCommand :=
    .flatMap fun c hc => leads_command fun items hitems => h items (hitems ▸ hc)
  have hend : Leads Phase.takesCommand [.tickEnd] (· = .idle) :=
    .command (i := .tickEnd) nofun rfl rfl
  exact (hbegin.append (hbytes.append hcommands)).append hend

/-- Settles O58: every tick leads from IDLE to IDLE. -/
theorem grammarStreamsRunWithoutFault : Obligations.GrammarStreamsRunWithoutFault :=
  fun _ s hf hp h => Leads.flatMap (fun k hk => leads_tick (h k hk)) s hf hp

/-- What the grammar lets stand between a state of each phase and the end of the stream (R78). -/
def Remainder (p : Phase) (is : List Instr) : Prop :=
  match p with
  | .idle => ∃ ticks : List GrammarTick, is = streamInstrs ticks
  | .rx => ∃ (bytes : List Byte) (commands : List GrammarCommand) (ticks : List GrammarTick),
    is = rxBytes bytes ++ (commands.flatMap GrammarCommand.instrs ++ .tickEnd :: streamInstrs ticks)
  | .cmd => ∃ (commands : List GrammarCommand) (ticks : List GrammarTick),
    is = commands.flatMap GrammarCommand.instrs ++ .tickEnd :: streamInstrs ticks
  | .batch => ∃ (items : List (Int × Int)) (commands : List GrammarCommand)
      (ticks : List GrammarTick),
    is = items.map (fun item => .setmItem item.1 item.2)
      ++ .setmEnd :: (commands.flatMap GrammarCommand.instrs ++ .tickEnd :: streamInstrs ticks)

theorem Remainder.rx_of_cmd {is : List Instr} (h : Remainder .cmd is) : Remainder .rx is :=
  ⟨[], h⟩

theorem Remainder.cons_command {c : GrammarCommand} {is : List Instr} (h : Remainder .cmd is) :
    Remainder .cmd (c.instrs ++ is) := by
  obtain ⟨commands, ticks, rfl⟩ := h
  exact ⟨c :: commands, ticks, by rw [List.flatMap_cons, List.append_assoc]⟩

theorem Remainder.cons_tickEnd {is : List Instr} (h : Remainder .idle is) :
    Remainder .cmd (.tickEnd :: is) := by
  obtain ⟨ticks, rfl⟩ := h
  exact ⟨[], ticks, rfl⟩

theorem Remainder.cons_tickBegin {is : List Instr} (now : Time) (h : Remainder .rx is) :
    Remainder .idle (.tickBegin now :: is) := by
  obtain ⟨bytes, commands, ticks, rfl⟩ := h
  exact ⟨⟨now, bytes, commands⟩ :: ticks,
    by simp [streamInstrs, GrammarTick.instrs, tick]⟩

theorem Remainder.cons_rxByte {is : List Instr} (b : Byte) (h : Remainder .rx is) :
    Remainder .rx (.rxByte b :: is) := by
  obtain ⟨bytes, commands, ticks, rfl⟩ := h
  exact ⟨b :: bytes, commands, ticks, rfl⟩

theorem Remainder.cons_setmBegin {is : List Instr} (h : Remainder .batch is) :
    Remainder .cmd (.setmBegin :: is) := by
  obtain ⟨items, commands, ticks, rfl⟩ := h
  exact ⟨.batch items :: commands, ticks, by simp [GrammarCommand.instrs, setMany]⟩

theorem Remainder.cons_setmItem {is : List Instr} (n v : Int) (h : Remainder .batch is) :
    Remainder .batch (.setmItem n v :: is) := by
  obtain ⟨items, commands, ticks, rfl⟩ := h
  exact ⟨(n, v) :: items, commands, ticks, rfl⟩

theorem Remainder.cons_setmEnd {is : List Instr} (h : Remainder .cmd is) :
    Remainder .batch (.setmEnd :: is) := by
  obtain ⟨commands, ticks, rfl⟩ := h
  exact ⟨[], commands, ticks, rfl⟩

theorem Remainder.cons_cmd {i : Instr} {q : Phase} {is : List Instr}
    (hq : phaseAfter i.op .cmd = some q) (h : Remainder q is) : Remainder .cmd (i :: is) := by
  cases i with
  | set n v => cases hq; exact h.cons_command (c := .set n v)
  | clear n => cases hq; exact h.cons_command (c := .clear n)
  | clearAll => cases hq; exact h.cons_command (c := .clearAll)
  | status => cases hq; exact h.cons_command (c := .status)
  | setmBegin => cases hq; exact h.cons_setmBegin
  | tickEnd => cases hq; exact h.cons_tickEnd
  | _ => cases hq

/-- A transaction in sequence stands in the grammar before whatever may follow it. -/
theorem Remainder.cons {i : Instr} {p q : Phase} {is : List Instr} (hq : phaseAfter i.op p = some q)
    (h : Remainder q is) : Remainder p (i :: is) := by
  cases p with
  | idle =>
    cases i with
    | tickBegin now => cases hq; exact h.cons_tickBegin now
    | _ => cases hq
  | rx =>
    cases i with
    | rxByte b => cases hq; exact h.cons_rxByte b
    | tickBegin | setmItem | setmEnd => cases hq
    | _ => exact (Remainder.cons_cmd hq h).rx_of_cmd
  | cmd => exact .cons_cmd hq h
  | batch =>
    cases i with
    | setmItem n v => cases hq; exact h.cons_setmItem n v
    | setmEnd => cases hq; exact h.cons_setmEnd
    | _ => cases hq

/-- A transaction after which a list still runs without a fault is in sequence (R81, R198). -/
theorem legal_of_execAll_cons {i : Instr} {is : List Instr} {s t : State} (hf : s.fault = false)
    (h : execAll (i :: is) s = .next t) (ht : t.fault = false) :
    ∃ p u, phaseAfter i.op s.phase = some p ∧ u.phase = p ∧ u.fault = false
      ∧ execAll is u = .next t := by
  obtain ⟨u, hu⟩ := exec_next i s
  rw [execAll_cons hu] at h
  have hfu : u.fault = false := by
    by_contra hne
    rw [execAll_of_fault (by simpa using hne)] at h
    cases h
    exact hne ht
  obtain ⟨hfs, -⟩ | ⟨-, -, rfl⟩ | ⟨-, ⟨p, hp⟩, rfl⟩ := exec_cases hu
  · rw [hf] at hfs; cases hfs
  · cases hfu
  · exact ⟨p, _, hp, ruleOf_phase hp, hfu, h⟩

theorem remainder_of_execAll {is : List Instr} {s t : State} (hf : s.fault = false)
    (h : execAll is s = .next t) (ht : t.fault = false) (hidle : t.phase = .idle) :
    Remainder s.phase is := by
  induction is generalizing s with
  | nil => cases h; rw [hidle]; exact ⟨[], rfl⟩
  | cons i is ih =>
    obtain ⟨p, u, hp, rfl, hfu, hu⟩ := legal_of_execAll_cons hf h ht
    exact .cons hp (ih hfu hu)

/-- Settles O59: read from the left, each transaction of the run stands in the grammar before the
rest. -/
theorem faultFreeStreamsAreGrammatical : Obligations.FaultFreeStreamsAreGrammatical := by
  intro is s t hf hp h ht hidle
  have hrem : Remainder .idle is := hp ▸ remainder_of_execAll hf h ht hidle
  exact hrem

end Sys2Proof.Machine
end

section
/-! What every step keeps of the frame in the buffer and of the tick's completed frame
(41_synchronizer.md R122 to R126, R133; 43_tick.md R175). -/

namespace Sys2Proof.Machine

/-! ### The stored header (R122) -/

/-- Bytes after the first leave the first alone. -/
theorem State.HeaderStored.storeByte {s : State} (h : s.HeaderStored) (h0 : s.idx ≠ 0) (b : Byte) :
    (s.storeByte b).HeaderStored := by
  intro _
  have hi : s.idx.toNat ≠ 0 := fun hc => h0 (BitVec.eq_of_toNat_eq hc)
  simp only [State.storeByte, Vector.getElem_setIfInBounds, if_neg hi]
  exact h h0

theorem State.HeaderStored.syncByte {s : State} (h : s.HeaderStored) (b : Byte) :
    (s.syncByte b).HeaderStored := by
  obtain hi | ⟨h0, hi⟩ | hi | hi := idx_cases s.idx
  · by_cases hb : b = s.cfg.header
    · rw [syncByte_of_header hi hb]
      exact fun _ => by simpa using hb
    · rwa [syncByte_of_noHeader hi hb]
  · rw [syncByte_of_filling h0 hi]
    exact h.storeByte h0 b
  · by_cases hb : b = s.cfg.footer
    · rw [syncByte_of_footer hi hb]
      exact fun h0 => absurd rfl h0
    · rw [syncByte_of_noFooter hi hb]
      exact fun h0 => absurd rfl h0
  · rw [syncByte_of_stray hi]
    exact fun h0 => absurd rfl h0

/-- The property speaks of the buffer, its index and the header alone. -/
theorem State.HeaderStored.of_eq {s t : State} (h : s.HeaderStored) (hi : t.idx = s.idx)
    (hb : t.buf = s.buf) (hc : t.cfg = s.cfg) : t.HeaderStored :=
  fun h0 => by rw [hb, hc]; exact h (hi ▸ h0)

theorem State.HeaderStored.ruleOf {s : State} (h : s.HeaderStored) (i : Instr) :
    (ruleOf i s).HeaderStored := by
  cases i with
  | rxByte b => exact (h.syncByte b).of_eq rfl rfl rfl
  | tickEnd => rw [ruleOf_tickEnd_eq]; exact h.of_eq rfl rfl rfl
  | _ => rw [ruleOf_frame_of_keepsLink rfl s]; exact h.of_eq rfl rfl rfl

theorem stepInvariant_headerStored : StepInvariant State.HeaderStored where
  rule _ _ h := h.ruleOf _
  fault _ _ h := h
  reset _ _ h0 := absurd rfl h0
  queues _ _ _ h := h
  host _ _ h := h

/-! ### The tick's completed frame (R133, R175) -/

/-- Only TICK_BEGIN writes the time, and only it and the synchronizer write `frameDone` (R170). -/
theorem ruleOf_clock_of_keepsLink {i : Instr} (h : Instr.keepsLink i = true)
    (hi : ∀ now, i ≠ .tickBegin now) (s : State) :
    (ruleOf i s).now = s.now ∧ (ruleOf i s).frameDone = s.frameDone := by
  cases i with
  | rxByte | tickEnd => cases h
  | tickBegin now => exact absurd rfl (hi now)
  | setmBegin | setmEnd | status => exact ⟨rfl, rfl⟩
  | clearAll => simp [ruleOf, deactivateAll_eq]
  | set n v =>
    by_cases hv : validSet n v = true
    · simp [ruleOf, ruleSet_of_valid s hv, State.activate]
    · simp [ruleOf, ruleSet_of_invalid s hv]
  | setmItem n v =>
    by_cases hv : validSet n v = true
    · by_cases hc : s.batchCount = 0xFFFFFFFF
      · simp [ruleOf, ruleSetmItem_of_full hv hc]
      · simp [ruleOf, ruleSetmItem_of_valid hv hc, State.activate]
    · simp [ruleOf, ruleSetmItem_of_invalid s hv]
  | clear n =>
    by_cases hv : validCh n = true
    · simp [ruleOf, ruleClear_of_valid s hv, State.deactivate]
    · simp [ruleOf, ruleClear_of_invalid s hv]

/-- A byte completes a frame, Connected at the tick's time, or leaves the link's elements alone
(R124, R127). -/
theorem syncByte_link_cases (s : State) (b : Byte) :
    ((s.syncByte b).connected = true ∧ (s.syncByte b).lastFrameTime = s.now)
      ∨ ((s.syncByte b).frameDone = s.frameDone ∧ (s.syncByte b).connected = s.connected
          ∧ (s.syncByte b).lastFrameTime = s.lastFrameTime) := by
  obtain hi | ⟨h0, hi⟩ | hi | hi := idx_cases s.idx
  · by_cases hb : b = s.cfg.header
    · rw [syncByte_of_header hi hb]; exact .inr ⟨rfl, rfl, rfl⟩
    · rw [syncByte_of_noHeader hi hb]; exact .inr ⟨rfl, rfl, rfl⟩
  · rw [syncByte_of_filling h0 hi]; exact .inr ⟨rfl, rfl, rfl⟩
  · by_cases hb : b = s.cfg.footer
    · rw [syncByte_of_footer hi hb, frameComplete_eq]; exact .inl ⟨rfl, rfl⟩
    · rw [syncByte_of_noFooter hi hb]; exact .inr ⟨rfl, rfl, rfl⟩
  · rw [syncByte_of_stray hi]; exact .inr ⟨rfl, rfl, rfl⟩

/-- The property speaks of four elements of an open tick. -/
theorem State.CompletedThisTick.of_eq {s t : State} (h : s.CompletedThisTick) (hp : s.phase ≠ .idle)
    (hd : t.frameDone = s.frameDone) (hc : t.connected = s.connected)
    (hl : t.lastFrameTime = s.lastFrameTime) (hn : t.now = s.now) : t.CompletedThisTick :=
  fun _ ht => by rw [hc, hl, hn]; exact h hp (hd ▸ ht)

theorem State.CompletedThisTick.syncByte {s : State} (h : s.CompletedThisTick)
    (hp : s.phase ≠ .idle) (b : Byte) : (s.syncByte b).CompletedThisTick := by
  obtain ⟨hc, hl⟩ | ⟨hd, hc, hl⟩ := syncByte_link_cases s b
  · exact fun _ _ => ⟨hc, hl.trans (syncByte_now s b).symm⟩
  · exact h.of_eq hp hd hc hl (syncByte_now s b)

/-- Of the rules in phase, TICK_BEGIN starts a tick without a frame and TICK_END closes it; the others
run in an open tick. -/
theorem State.CompletedThisTick.ruleOf {s : State} (h : s.CompletedThisTick) {i : Instr} {p : Phase}
    (hlegal : phaseAfter i.op s.phase = some p) : (ruleOf i s).CompletedThisTick := by
  have hopen : (∀ now, i ≠ .tickBegin now) → s.phase ≠ .idle :=
    fun hi => phase_ne_idle_of_phaseAfter hi hlegal
  have hclock := fun hk hi => ruleOf_clock_of_keepsLink (i := i) hk hi s
  cases i with
  | tickBegin now => exact fun _ hd => nomatch hd
  | tickEnd => exact fun hp => absurd rfl hp
  | rxByte b =>
    have hp := hopen nofun
    exact (h.syncByte hp b).of_eq (syncByte_phase s b ▸ hp) rfl rfl rfl rfl
  | _ =>
    have hp := hopen nofun
    obtain ⟨hn, hd⟩ := hclock rfl nofun
    exact h.of_eq hp hd (by rw [ruleOf_frame_of_keepsLink rfl s])
      (by rw [ruleOf_frame_of_keepsLink rfl s]) hn

theorem stepInvariant_completedThisTick : StepInvariant State.CompletedThisTick where
  rule _ hlegal h := h.ruleOf hlegal
  fault _ _ h := h
  reset _ _ hp := absurd rfl hp
  queues _ _ _ h := h
  host _ _ h := h

/-- Settles O53: each of the two properties is kept by every part of a step. -/
theorem stepKeepsFrameInvariants : Obligations.StepKeepsFrameInvariants :=
  fun _ _ hstep => ⟨fun h => stepInvariant_headerStored.step h hstep,
    fun h => stepInvariant_completedThisTick.step h hstep⟩

end Sys2Proof.Machine
end

section
/-! The proofs about the frame codec (40_codec.md R101 to R110): a frame's payload bits and a channel
vector's are the same stream, and each form of Decode and Encode is compared with it bit by bit. -/

namespace Sys2Proof.Machine

/-! ### The two round trips (R109, R110) -/

theorem decodeFrame_ch (F : Frame) (i : Fin 16) : (decodeFrame F).ch[i] = decodeChannel F i := by
  simp [decodeFrame]

/-- A decoded channel is the value whose bits are its payload bits (R102). -/
theorem decodeChannel_eq_iff {F : Frame} {i : Fin 16} {c : Chan} :
    decodeChannel F i = c ↔ ∀ j < 11, pbit F (11 * i.val + j) = c.getLsbD j := by
  refine ⟨fun h j hj => h ▸ (getLsbD_decodeChannel F i j hj).symm, fun h => ?_⟩
  exact BitVec.eq_of_getLsbD_eq fun j hj => (getLsbD_decodeChannel F i j hj).trans (h j hj)

theorem decodeChannel_encodeFrame (cfg : Config) (ch : Channels) (i : Fin 16) :
    decodeChannel (encodeFrame cfg ch) i = ch[i] := by
  refine decodeChannel_eq_iff.2 fun j hj => ?_
  rw [pbit_encodeFrame cfg ch _ (by omega), payloadBit_channel ch i j hj]

theorem decodeFrame_encodeFrame (cfg : Config) (ch : Channels) :
    decodeFrame (encodeFrame cfg ch) = { ch := ch, frameLost := false, failsafe := false } := by
  have hch : (decodeFrame (encodeFrame cfg ch)).ch = ch :=
    Vector.ext fun i hi => (decodeFrame_ch _ ⟨i, hi⟩).trans (decodeChannel_encodeFrame cfg ch ⟨i, hi⟩)
  have hflags := encodeFrame_flags cfg ch
  simp only [decodeFrame, Decoded.mk.injEq] at hch ⊢
  exact ⟨hch, by rw [hflags]; rfl, by rw [hflags]; rfl⟩

/-- Settles O26: Decode inverts Encode, and the mask of R107 is the residue modulo `2^11`. -/
theorem decodeOfEncodedFrame : Obligations.DecodeOfEncodedFrame := by
  refine ⟨decodeFrame_encodeFrame, fun cfg v i => ?_⟩
  rw [encodeInts, decodeFrame_encodeFrame]
  have hpos : 0 ≤ v[i] % 2048 := Int.emod_nonneg _ (by decide)
  exact ⟨by simpa using hpos, rfl, rfl⟩

/-- The channels of a decoded frame pack to the payload bits they were read from. -/
theorem payloadBit_decodeFrame (F : Frame) {k : Nat} (hk : k < 176) :
    payloadBit (decodeFrame F).ch k = pbit F k := by
  have hi : k / 11 < 16 := by omega
  have hj : k % 11 < 11 := Nat.mod_lt _ (by omega)
  calc payloadBit (decodeFrame F).ch k
      = payloadBit (decodeFrame F).ch (11 * (k / 11) + k % 11) := by rw [Nat.div_add_mod]
    _ = (decodeFrame F).ch[(⟨k / 11, hi⟩ : Fin 16)].getLsbD (k % 11) :=
        payloadBit_channel _ ⟨k / 11, hi⟩ _ hj
    _ = pbit F (11 * (k / 11) + k % 11) := by rw [decodeFrame_ch, getLsbD_decodeChannel _ _ _ hj]
    _ = pbit F k := by rw [Nat.div_add_mod]

theorem payloadByte_decodeFrame (F : Frame) {m : Nat} (hm : m < 22) :
    payloadByte (decodeFrame F).ch m = F[1 + m] := by
  refine BitVec.eq_of_getLsbD_eq fun t ht => ?_
  rw [getLsbD_payloadByte _ _ _ ht, payloadBit_decodeFrame F (by omega), pbit_eq F m t (by omega) ht]

/-- Settles O27. -/
theorem encodeOfDecodedFrame : Obligations.EncodeOfDecodedFrame := by
  refine fun cfg F => ⟨?_, encodeFrame_header .., encodeFrame_flags .., encodeFrame_footer ..⟩
  rintro ⟨k, hk⟩ h1 h22
  obtain ⟨m, rfl⟩ := Nat.exists_eq_add_of_le h1
  have hm : m < 22 := by simp only at h22; omega
  exact (encodeFrame_payload cfg _ m hm).trans (payloadByte_decodeFrame F hm)

/-! ### Decode: the sum of its bits and the byte table (R102, R103) -/

/-- A number's bits, each with its weight, sum to the number. -/
theorem sum_range_testBit (x n : Nat) :
    ((List.range n).map fun j => (x.testBit j).toNat * 2 ^ j).sum = x % 2 ^ n := by
  induction n with
  | zero => simp [Nat.mod_one]
  | succ n ih =>
    rw [List.range_succ, List.map_append, List.sum_append, ih, Nat.mod_pow_succ]
    simp [Nat.mul_comm, Nat.toNat_testBit]

theorem toNat_decodeChannel (F : Frame) (i : Fin 16) :
    (decodeChannel F i).toNat
      = ((List.range 11).map fun j => (pbit F (11 * i.val + j)).toNat * 2 ^ j).sum := by
  rw [← Nat.mod_eq_of_lt (decodeChannel F i).isLt, ← sum_range_testBit]
  refine congrArg List.sum (List.map_congr_left fun j hj => ?_)
  rw [← getLsbD_decodeChannel F i j (List.mem_range.1 hj)]
  rfl

/-- Two bytes in a row, shifted right by `sh` bits of the first. -/
theorem getLsbD_twoBytes (x y : Byte) {sh j : Nat} (hsh : sh < 8) (hj : j < 11) :
    (x.zeroExtend 24 >>> sh ||| y.zeroExtend 24 <<< (8 - sh)).getLsbD j
      = if sh + j < 8 then x.getLsbD (sh + j) else y.getLsbD (sh + j - 8) := by
  have hsub : j - (8 - sh) = sh + j - 8 := by omega
  have hx : ¬ sh + j < 8 → x.getLsbD (sh + j) = false := fun h => BitVec.getLsbD_of_ge _ _ (by omega)
  by_cases h : sh + j < 8
  · simp [h, show j < 24 by omega, show j < 8 - sh by omega, show sh + j < 24 by omega]
  · simp [h, hx h, hsub, show j < 24 by omega, show ¬ j < 8 - sh by omega]

/-- The third byte of R103 supplies the bits past the first two; with a shift of at most 5 eleven bits
do not reach it. -/
theorem getLsbD_threeBytes (x y z : Byte) {sh j : Nat} (hsh : sh < 8) (hj : j < 11) :
    (if sh > 5 then
        x.zeroExtend 24 >>> sh ||| y.zeroExtend 24 <<< (8 - sh) ||| z.zeroExtend 24 <<< (16 - sh)
      else x.zeroExtend 24 >>> sh ||| y.zeroExtend 24 <<< (8 - sh)).getLsbD j
      = if sh + j < 8 then x.getLsbD (sh + j)
        else if sh + j < 16 then y.getLsbD (sh + j - 8) else z.getLsbD (sh + j - 16) := by
  have hz : (z.zeroExtend 24 <<< (16 - sh)).getLsbD j
      = if sh + j < 16 then false else z.getLsbD (sh + j - 16) := by
    have hsub : j - (16 - sh) = sh + j - 16 := by omega
    have hlt : j < 16 - sh ↔ sh + j < 16 := by omega
    by_cases h : sh + j < 16 <;> simp [h, hsub, hlt, show j < 24 by omega]
  have hy : ¬ sh + j < 16 → y.getLsbD (sh + j - 8) = false :=
    fun h => BitVec.getLsbD_of_ge _ _ (by omega)
  split
  · rw [BitVec.getLsbD_or, getLsbD_twoBytes x y hsh hj, hz]
    by_cases h8 : sh + j < 8
    · simp [h8, show sh + j < 16 by omega]
    · by_cases h16 : sh + j < 16
      · simp [h8, h16]
      · simp [h8, h16, hy h16]
  · rw [getLsbD_twoBytes x y hsh hj, if_pos (show sh + j < 16 by omega)]

/-- The mask of R103 keeps the eleven low bits. -/
theorem getLsbD_mask11 (x : BitVec 24) {j : Nat} (hj : j < 11) :
    ((x &&& 0x7FF).truncate 11).getLsbD j = x.getLsbD j := by
  have hmask : (0x7FF : BitVec 24).getLsbD j = true := by
    interval_cases j <;> rfl
  rw [BitVec.getLsbD_setWidth, BitVec.getLsbD_and, hmask]
  simp [hj]

/-- Bit `j` of the table's channel is payload bit `11*i + j` (R103). -/
theorem getLsbD_decodeByTable (F : Frame) (i : Fin 16) {j : Nat} (hj : j < 11) :
    (decodeByTable F i).getLsbD j = pbit F (11 * i.val + j) := by
  have hsh : 11 * i.val % 8 < 8 := Nat.mod_lt _ (by omega)
  rw [decodeByTable, getLsbD_mask11 _ hj, getLsbD_threeBytes _ _ _ hsh hj, pbit]
  split
  next h =>
    rw [show (11 * i.val + j) / 8 = 11 * i.val / 8 by omega,
      show (11 * i.val + j) % 8 = 11 * i.val % 8 + j by omega]
  next h =>
    split
    next h16 =>
      rw [show 1 + (11 * i.val + j) / 8 = 1 + 11 * i.val / 8 + 1 by omega,
        show (11 * i.val + j) % 8 = 11 * i.val % 8 + j - 8 by omega]
    next h16 =>
      rw [show 1 + (11 * i.val + j) / 8 = 1 + 11 * i.val / 8 + 2 by omega,
        show (11 * i.val + j) % 8 = 11 * i.val % 8 + j - 16 by omega]

/-- Settles O28. -/
theorem decodeEqualsBitSumAndTable : Obligations.DecodeEqualsBitSumAndTable := by
  intro F i
  rw [decodeFrame_ch]
  exact ⟨toNat_decodeChannel F i, decodeChannel_eq_iff.2 fun j hj => (getLsbD_decodeByTable F i hj).symm⟩

/-! ### What Decode reads (R104, R105) -/

/-- Settles O31: every channel bit is a bit of bytes 1 to 22, and the flags are two bits of byte 23. -/
theorem decodeIgnoresReservedBits : Obligations.DecodeIgnoresReservedBits := by
  intro F G hpayload hlost hfailsafe
  have hbit : ∀ k < 176, pbit F k = pbit G k := by
    intro k hk
    have hbyte := hpayload ⟨1 + k / 8, by omega⟩ (Nat.le_add_right ..) (by simp only; omega)
    rw [← Nat.div_add_mod k 8, pbit_eq F _ _ (by omega) (by omega), pbit_eq G _ _ (by omega) (by omega)]
    exact congrArg (·.getLsbD (k % 8)) hbyte
  have hch : ∀ i : Fin 16, decodeChannel F i = decodeChannel G i := fun i =>
    decodeChannel_eq_iff.2 fun j hj => by
      rw [getLsbD_decodeChannel G i j hj, hbit _ (by omega)]
  refine ⟨?_, rfl, rfl⟩
  simp only [decodeFrame, hch, frameLostBit, failsafeBit, hlost, hfailsafe]

end Sys2Proof.Machine
end

section
/-! The proofs about the other two forms of Encode (40_codec.md R106): the loop of the pseudocode sets
one payload bit at a time, and the per-byte form writes each byte from at most two channels. -/

namespace Sys2Proof.Machine

/-- Two frames are equal when every bit of every byte is. -/
theorem frame_eq_of_getLsbD {F G : Frame}
    (h : ∀ n (hn : n < 25), ∀ t < 8, F[n].getLsbD t = G[n].getLsbD t) : F = G :=
  Vector.ext fun n hn => BitVec.eq_of_getLsbD_eq fun t ht => h n hn t ht

/-- Encode byte by byte: the markers, the flags, and between them the payload stream (R106). -/
theorem getElem_encodeFrame (cfg : Config) (ch : Channels) (n : Nat) (hn : n < 25) :
    (encodeFrame cfg ch)[n]
      = if n = 0 then cfg.header else if n = 24 then cfg.footer else if n = 23 then originatedFlags
        else payloadByte ch (n - 1) := by
  simp [encodeFrame]

/-! ### The loop of the pseudocode -/

/-- Setting payload bit `k` sets bit `k % 8` of byte `1 + k / 8`, and no other bit (R101). -/
theorem getLsbD_setPbit (F : Frame) (k : Nat) {n t : Nat} (hn : n < 25) (ht : t < 8) :
    (setPbit F k)[n].getLsbD t = (F[n].getLsbD t || decide (8 + k = 8 * n + t)) := by
  by_cases h : 1 + k / 8 = n
  · subst h
    have hiff : 8 + k = 8 * (1 + k / 8) + t ↔ k % 8 = t := by omega
    simp [setPbit, hiff, List.getD_eq_getElem?_getD, hn, ht, eq_comm (a := t)]
  · have hne : ¬ 8 + k = 8 * n + t := by omega
    simp [setPbit, h, hne]

/-- A loop whose body only ever sets the bit `t` of byte `n`, where `c` holds of the element, leaves it
set when it was, or when `c` held of some element. -/
theorem getLsbD_foldl {α : Type} {body : Frame → α → Frame} {c : α → Bool} {n t : Nat} (hn : n < 25)
    (hbody : ∀ F a, (body F a)[n].getLsbD t = (F[n].getLsbD t || c a)) (l : List α) (F : Frame) :
    (l.foldl body F)[n].getLsbD t = (F[n].getLsbD t || l.any c) := by
  induction l generalizing F with
  | nil => simp
  | cons a l ih => rw [List.foldl_cons, ih, hbody, List.any_cons, Bool.or_assoc]

/-- Channel `i`'s value bit `j` is set and stands at bit `t` of byte `n` (R52). -/
def placesBit (ch : Channels) (n t : Nat) (i : Fin 16) (j : Nat) : Bool :=
  ch[i].getLsbD j && decide (8 + (11 * i.val + j) = 8 * n + t)

/-- Before the loop: zeros, the markers and the flags (R106). -/
def unpackedFrame (cfg : Config) : Frame :=
  (((Vector.replicate 25 (0 : Byte)).set 0 cfg.header).set 24 cfg.footer).set 23 originatedFlags

/-- The loop sets the bits that some channel places, and leaves the others as they were. -/
theorem getLsbD_encodeByLoop (cfg : Config) (ch : Channels) {n t : Nat} (hn : n < 25) (ht : t < 8) :
    (encodeByLoop cfg ch)[n].getLsbD t
      = ((unpackedFrame cfg)[n].getLsbD t
        || (List.finRange 16).any fun i => (List.range 11).any (placesBit ch n t i)) := by
  refine getLsbD_foldl hn (fun F i => getLsbD_foldl hn (fun F j => ?_) _ F) _ _
  split
  next h => rw [getLsbD_setPbit F _ hn ht, placesBit, h, Bool.true_and]
  next h => simp only [placesBit, h, Bool.false_and, Bool.or_false]

/-- The bit that the channels place at bit `t` of a payload byte is that of the payload stream. -/
theorem any_placesBit_of_payload (ch : Channels) {n t : Nat} (h1 : 1 ≤ n) (h22 : n ≤ 22) (ht : t < 8) :
    ((List.finRange 16).any fun i => (List.range 11).any (placesBit ch n t i))
      = payloadBit ch (8 * (n - 1) + t) := by
  have hk : (8 * (n - 1) + t) / 11 < 16 := by omega
  have hbit := payloadBit_channel ch ⟨(8 * (n - 1) + t) / 11, hk⟩ ((8 * (n - 1) + t) % 11)
    (Nat.mod_lt _ (by omega))
  simp only [Nat.div_add_mod] at hbit
  rw [Bool.eq_iff_iff, hbit]
  simp only [List.any_eq_true, List.mem_finRange, true_and, List.mem_range, placesBit,
    Bool.and_eq_true, decide_eq_true_eq]
  constructor
  · rintro ⟨i, j, hj, hset, hpos⟩
    obtain rfl : i = ⟨(8 * (n - 1) + t) / 11, hk⟩ := Fin.ext (by simp only; omega)
    obtain rfl : j = (8 * (n - 1) + t) % 11 := by omega
    exact hset
  · intro hset
    refine ⟨_, _, Nat.mod_lt _ (by omega), hset, ?_⟩
    simp only
    omega

/-- No channel places a bit in the markers or the flags. -/
theorem any_placesBit_of_notPayload (ch : Channels) {n t : Nat} (hn : n = 0 ∨ 22 < n) (ht : t < 8) :
    ((List.finRange 16).any fun i => (List.range 11).any (placesBit ch n t i)) = false := by
  simp only [List.any_eq_false, List.mem_finRange, List.mem_range, placesBit, List.any_eq_true,
    Bool.and_eq_true, decide_eq_true_eq]
  rintro i - ⟨j, hj, -, hpos⟩
  omega

theorem getElem_unpackedFrame (cfg : Config) {n : Nat} (hn : n < 25) :
    (unpackedFrame cfg)[n]
      = if n = 0 then cfg.header else if n = 24 then cfg.footer else if n = 23 then originatedFlags
        else 0 := by
  simp only [unpackedFrame, Vector.getElem_set, Vector.getElem_replicate]
  grind

/-- Settles O29: at the markers and the flags the loop places nothing, and at a payload byte, zero
before the loop, exactly the payload stream. -/
theorem encodeEqualsLoop : Obligations.EncodeEqualsLoop := by
  refine fun cfg ch => frame_eq_of_getLsbD fun n hn t ht => ?_
  rw [getLsbD_encodeByLoop cfg ch hn ht, getElem_unpackedFrame, getElem_encodeFrame]
  by_cases hp : n = 0 ∨ 22 < n
  · rw [any_placesBit_of_notPayload ch hp ht, Bool.or_false]
    have : n = 0 ∨ n = 23 ∨ n = 24 := by omega
    obtain rfl | rfl | rfl := this <;> rfl
  · rw [any_placesBit_of_payload ch (by omega) (by omega) ht]
    simp [show n ≠ 0 by omega, show n ≠ 24 by omega, show n ≠ 23 by omega,
      getLsbD_payloadByte ch (n - 1) t ht]

/-! ### The per-byte form -/

/-- Channel `q` of a vector, 0 beyond its last: how `payloadBit` reads it. -/
def chanAt (ch : Channels) (q : Nat) : Chan := ch.toList.getD q 0

theorem chanAt_of_lt (ch : Channels) {q : Nat} (hq : q < 16) : chanAt ch q = ch[q] := by
  simp [chanAt, hq]

/-- Payload bit `r` places after the start of channel `q` is in channel `q`, or in the next. -/
theorem payloadBit_from (ch : Channels) (q : Nat) {r : Nat} (hr : r < 22) :
    payloadBit ch (11 * q + r)
      = if r < 11 then (chanAt ch q).getLsbD r else (chanAt ch (q + 1)).getLsbD (r - 11) := by
  split
  next h =>
    rw [payloadBit, show (11 * q + r) / 11 = q by omega, show (11 * q + r) % 11 = r by omega, chanAt]
  next h =>
    rw [payloadBit, show (11 * q + r) / 11 = q + 1 by omega,
      show (11 * q + r) % 11 = r - 11 by omega, chanAt]

/-- A payload byte that starts at bit `lo` of channel `q` and ends in it. -/
theorem payloadByte_within (ch : Channels) {m q lo : Nat} (hm : 8 * m = 11 * q + lo) (hlo : lo ≤ 3) :
    payloadByte ch m = ((chanAt ch q).extractLsb' lo 8).zeroExtend 8 := by
  refine BitVec.eq_of_getLsbD_eq fun t ht => ?_
  rw [getLsbD_payloadByte ch m t ht, hm, Nat.add_assoc, payloadBit_from ch q (by omega),
    if_pos (by omega)]
  simp [ht]

/-- A payload byte that starts at bit `lo` of channel `q`, takes the `n` bits left of it, and goes on
in channel `q + 1`. -/
theorem payloadByte_across (ch : Channels) {m q lo n : Nat} (hm : 8 * m = 11 * q + lo)
    (hlo : lo + n = 11) (hn : n < 8) :
    payloadByte ch m
      = ((chanAt ch q).extractLsb' lo n).zeroExtend 8
        ||| ((chanAt ch (q + 1)).extractLsb' 0 (8 - n)).zeroExtend 8 <<< n := by
  refine BitVec.eq_of_getLsbD_eq fun t ht => ?_
  rw [getLsbD_payloadByte ch m t ht, hm, Nat.add_assoc, payloadBit_from ch q (by omega)]
  by_cases h : t < n
  · simp [ht, h, show lo + t < 11 by omega]
  · simp [ht, h, show ¬ lo + t < 11 by omega, show t - n < 8 - n by omega,
      show lo + t - 11 = t - n by omega]

/-- The eleven bytes of group `g` of eight channels are those of the payload stream: each row names the
channel its byte starts in, the bit it starts at and, if it goes on in the next channel, how many bits
are left (R106). -/
theorem groupBytes_eq (ch : Channels) (a : Vector Chan 8) (g : Nat)
    (ha : ∀ k : Fin 8, a[k] = chanAt ch (8 * g + k.val)) :
    groupBytes a = (List.range 11).map fun m => payloadByte ch (11 * g + m) := by
  have within (m q lo : Nat) (hm : 8 * m = 11 * q + lo) (hlo : lo ≤ 3) :=
    payloadByte_within ch (m := 11 * g + m) (q := 8 * g + q) (lo := lo) (by omega) hlo
  have across (m q lo n : Nat) (hm : 8 * m = 11 * q + lo) (hlo : lo + n = 11) (hn : n < 8) :=
    payloadByte_across ch (m := 11 * g + m) (q := 8 * g + q) (lo := lo) (n := n) (by omega) hlo hn
  simp only [List.range_succ_eq_map, List.range_zero, List.map_cons, List.map_nil, Nat.succ_eq_add_one]
  rw [within 0 0 0, across 1 0 8 3, across 2 1 5 6, within 3 2 2, across 4 2 10 1, across 5 3 7 4,
    across 6 4 4 7, within 7 5 1, across 8 5 9 2, across 9 6 6 5, within 10 7 3]
  · simp only [groupBytes, ha]
    rfl
  all_goals decide

/-- An encoded frame as a list: the header, the payload stream, the flags and the footer. -/
theorem toList_encodeFrame (cfg : Config) (ch : Channels) :
    (encodeFrame cfg ch).toList
      = [cfg.header] ++ (List.range 22).map (payloadByte ch) ++ [originatedFlags, cfg.footer] := by
  refine List.ext_getElem (by simp) fun n hn _ => ?_
  have hn : n < 25 := by simpa using hn
  rw [Vector.getElem_toList, getElem_encodeFrame]
  have hcases : n = 0 ∨ (1 ≤ n ∧ n ≤ 22) ∨ n = 23 ∨ n = 24 := by omega
  obtain rfl | ⟨h1, h22⟩ | rfl | rfl := hcases
  · simp
  · obtain ⟨m, rfl⟩ := Nat.exists_eq_add_of_le' h1
    simp [show m < 22 by omega, show m ≠ 23 by omega, show m ≠ 22 by omega]
  · simp
  · simp

/-- Settles O30: the payload stream is its two groups of eleven bytes. -/
theorem encodeEqualsPerByteForm : Obligations.EncodeEqualsPerByteForm := by
  intro cfg ch
  have hlow : groupBytes (Vector.ofFn fun k : Fin 8 => ch[k.val])
      = (List.range 11).map (payloadByte ch) := by
    rw [groupBytes_eq ch _ 0 fun k => by
      simp [chanAt_of_lt ch (show k.val < 16 by omega)]]
    simp
  have hhigh : groupBytes (Vector.ofFn fun k : Fin 8 => ch[k.val + 8])
      = (List.range 11).map fun m => payloadByte ch (11 + m) :=
    groupBytes_eq ch _ 1 fun k => by
      simp [Nat.add_comm 8, chanAt_of_lt ch (show k.val + 8 < 16 by omega)]
  rw [toList_encodeFrame, encodeByBytes, hlow, hhigh, show 22 = 11 + 11 by rfl, List.range_add]
  simp [Function.comp_def]

end Sys2Proof.Machine
end

section
/-! The proofs about the synchronizer (41_synchronizer.md): one byte at the port, and the bytes of a
frame. -/

namespace Sys2Proof.Machine

/-! ### One byte at the port (R121 to R126) -/

theorem setPhase_of_phase {s : State} {p : Phase} (h : s.phase = p) : s.setPhase p = s := by
  subst h; rfl

/-- A tick that drains frame bytes gives each to the synchronizer (R121). -/
theorem exec_rxByte {s : State} (hf : s.fault = false) (hp : s.phase = .rx) (b : Byte) :
    exec (.rxByte b) s = .next (s.syncByte b) := by
  rw [exec_of_legal hf (p := .rx) (by rw [hp]; rfl)]
  exact congrArg _ (setPhase_of_phase ((syncByte_phase s b).trans hp))

theorem toNat_ofNat_idx {k : Nat} (hk : k < 25) : (BitVec.ofNat 5 k).toNat = k := by
  rw [BitVec.toNat_ofNat, Nat.mod_eq_of_lt (by omega)]

/-- The byte stored at an index within the buffer (R123). -/
theorem storeByte_of_idx {s : State} {k : Nat} (hk : k < 25) (h : s.idx = BitVec.ofNat 5 k) (b : Byte) :
    s.storeByte b = { s with buf := s.buf.set k b, idx := BitVec.ofNat 5 (k + 1) } := by
  have hbuf : s.buf.setIfInBounds k b = s.buf.set k b :=
    Vector.ext fun j hj => by rw [Vector.getElem_setIfInBounds, Vector.getElem_set]
  rw [State.storeByte, h, toNat_ofNat_idx hk, hbuf, BitVec.ofNat_add]
  rfl

/-- The state in which the frame `F` has just completed (R124, R127). -/
def State.completed (s : State) (F : Frame) : State :=
  { s with
    buf := F
    idx := 0
    inCh := (decodeFrame F).ch
    frameLost := (decodeFrame F).frameLost
    failsafe := (decodeFrame F).failsafe
    frameDone := true
    lastFrameTime := s.now
    connected := true
    tel := if s.connected = true then s.tel else s.tel ++ [.status s.now true] }

theorem completed_cfg (s : State) (F : Frame) : (s.completed F).cfg = s.cfg := by
  rw [State.completed]

/-- The footer completes the frame that the buffer then holds (R124). -/
theorem syncByte_eq_completed {s : State} {b : Byte} (h : s.idx = 24) (hb : b = s.cfg.footer) :
    s.syncByte b = s.completed (s.buf.set 24 b) := by
  rw [syncByte_of_footer h hb, storeByte_of_idx (k := 24) (by decide) h, frameComplete_eq]
  rfl

/-- Settles O17. -/
theorem seekingTakesOnlyHeader : Obligations.SeekingTakesOnlyHeader := by
  intro s b hf hp h0
  rw [exec_rxByte hf hp]
  exact ⟨fun hb => congrArg _ (syncByte_of_header h0 hb),
    fun hb => congrArg _ (syncByte_of_noHeader h0 hb)⟩

/-- Settles O18: between the header and the footer the byte is stored whatever it is. -/
theorem fillingAppendsAnyByte : Obligations.FillingAppendsAnyByte := by
  intro s b k hf hp hk0 hk24 hi
  have hnat : s.idx.toNat = k.val := hi ▸ toNat_ofNat_idx k.isLt
  have h0 : s.idx ≠ 0 := fun h0 => hk0.ne (by rw [← hnat, h0]; rfl)
  rw [exec_rxByte hf hp, syncByte_of_filling h0 (hnat ▸ hk24), storeByte_of_idx k.isLt hi]

/-- Settles O19. -/
theorem footerMismatchDropsFrame : Obligations.FooterMismatchDropsFrame := by
  intro s b hf hp hi hb
  rw [exec_rxByte hf hp, syncByte_of_noFooter hi hb, storeByte_of_idx (k := 24) (by decide) hi]

/-- Settles O20. -/
theorem footerMatchCompletesFrame : Obligations.FooterMatchCompletesFrame := by
  intro s b hf hp hi hb F
  rw [exec_rxByte hf hp, syncByte_eq_completed hi hb]
  rfl

/-- Settles O21. -/
theorem strayByteIsDiscarded : Obligations.StrayByteIsDiscarded := by
  intro s b hf hp hi
  rw [exec_rxByte hf hp, syncByte_of_stray hi]

/-! ### The bytes of a frame (R122 to R129, R135) -/

/-- A list of bytes through the synchronizer. -/
def State.feed (s : State) (bs : List Byte) : State := bs.foldl State.syncByte s

theorem feed_cons (s : State) (b : Byte) (bs : List Byte) :
    s.feed (b :: bs) = (s.syncByte b).feed bs := rfl

theorem feed_append (s : State) (bs cs : List Byte) : s.feed (bs ++ cs) = (s.feed bs).feed cs :=
  List.foldl_append

theorem execAll_rxBytes (bs : List Byte) {s : State} (hf : s.fault = false) (hp : s.phase = .rx) :
    execAll (rxBytes bs) s = .next (s.feed bs) := by
  induction bs generalizing s with
  | nil => rfl
  | cons b bs ih =>
    rw [rxBytes, List.map_cons, execAll_cons (exec_rxByte hf hp b), feed_cons]
    exact ih ((syncByte_fault s b).trans hf) ((syncByte_phase s b).trans hp)

/-- Noise without a header byte leaves Seeking as it is (R122). -/
theorem feed_noise {s : State} (h0 : s.idx = 0) {N : List Byte} (hN : ∀ b ∈ N, b ≠ s.cfg.header) :
    s.feed N = s := by
  induction N with
  | nil => rfl
  | cons b N ih =>
    obtain ⟨hb, hN⟩ := List.forall_mem_cons.1 hN
    rw [feed_cons, syncByte_of_noHeader h0 hb, ih hN]

/-- The frame carries the markers of R6. -/
def Marked (c : Config) (F : Frame) : Prop := F[0] = c.header ∧ F[24] = c.footer

/-- The buffer `B` with the first `n` bytes of `F` in it; the other bytes are stale (R31). Irreducible:
proofs go through its bytes, and comparing states must not compute it. -/
@[irreducible] def overlay (F B : Frame) (n : Nat) : Frame :=
  Vector.ofFn fun k : Fin 25 => if k.val < n then F[k] else B[k]

theorem getElem_overlay (F B : Frame) (n : Nat) {k : Nat} (hk : k < 25) :
    (overlay F B n)[k] = if k < n then F[k] else B[k] := by
  simp [overlay]

theorem overlay_zero (F B : Frame) : overlay F B 0 = B :=
  Vector.ext fun k hk => by rw [getElem_overlay, if_neg k.not_lt_zero]

theorem overlay_all (F B : Frame) : overlay F B 25 = F :=
  Vector.ext fun k hk => by rw [getElem_overlay, if_pos hk]

theorem overlay_set (F B : Frame) {n : Nat} (hn : n < 25) :
    (overlay F B n).set n F[n] = overlay F B (n + 1) := by
  refine Vector.ext fun k hk => ?_
  rw [Vector.getElem_set, getElem_overlay, getElem_overlay]
  grind

/-- The state with the first `n` bytes of a frame stored. -/
def State.loaded (s : State) (F : Frame) (n : Nat) : State :=
  { s with buf := overlay F s.buf n, idx := BitVec.ofNat 5 n }

theorem loaded_zero {s : State} (h0 : s.idx = 0) (F : Frame) : s.loaded F 0 = s := by
  calc s.loaded F 0 = { s with buf := s.buf, idx := BitVec.ofNat 5 0 } := by
        rw [State.loaded, overlay_zero]
    _ = s := by rw [show BitVec.ofNat 5 0 = s.idx from h0.symm]

/-- Before the footer, each byte of a frame is stored (R122, R123). -/
theorem syncByte_loaded {s : State} {F : Frame} (hF : Marked s.cfg F) {n : Nat} (hn : n < 24) :
    (s.loaded F n).syncByte F[n] = s.loaded F (n + 1) := by
  have hset := overlay_set F s.buf (n := n) (by omega)
  cases n with
  | zero =>
    rw [syncByte_of_header (s := s.loaded F 0) rfl hF.1]
    simp only [State.loaded, hset]
    rfl
  | succ n =>
    have hnat : (s.loaded F (n + 1)).idx.toNat = n + 1 := toNat_ofNat_idx (by omega)
    have hne : (s.loaded F (n + 1)).idx ≠ 0 := fun h => by simp [h] at hnat
    rw [syncByte_of_filling hne (by omega), storeByte_of_idx (k := n + 1) (by omega) rfl]
    simp only [State.loaded, hset]

theorem feed_take {s : State} {F : Frame} (h0 : s.idx = 0) (hF : Marked s.cfg F) {n : Nat}
    (hn : n ≤ 24) : s.feed (F.toList.take n) = s.loaded F n := by
  induction n with
  | zero => exact (loaded_zero h0 F).symm
  | succ n ih =>
    rw [List.take_add_one, List.getElem?_eq_getElem (by simp; omega), feed_append, ih (by omega)]
    exact syncByte_loaded hF (by omega)

/-- From Seeking, the bytes of a frame complete it (R124). -/
theorem feed_frame {s : State} {F : Frame} (h0 : s.idx = 0) (hF : Marked s.cfg F) :
    s.feed F.toList = s.completed F := by
  have hlist : F.toList = F.toList.take 24 ++ [F[24]] := by
    rw [← Vector.getElem_toList (by simp), List.take_append_getElem, List.take_of_length_le (by simp)]
  have hbuf : (s.loaded F 24).buf.set 24 F[24] = F :=
    (overlay_set F s.buf (by decide)).trans (overlay_all F s.buf)
  calc s.feed F.toList = (s.loaded F 24).syncByte F[24] := by
        rw [hlist, feed_append, feed_take h0 hF le_rfl]; rfl
    _ = (s.loaded F 24).completed F := by
        rw [syncByte_eq_completed (s := s.loaded F 24) rfl hF.2, hbuf]
    _ = s.completed F := rfl

/-- Settles O22: before the last byte come noise, which changes nothing, and fewer than 25 bytes of the
frame, which are only stored. -/
theorem synchronisesOnCleanNoise : Obligations.SynchronisesOnCleanNoise := by
  intro s N F hf hp h0 hN hheader hfooter
  have hF : Marked s.cfg F := ⟨hheader, hfooter⟩
  refine ⟨fun pre hpre hne => ?_, ?_⟩
  · have hlen : pre.length < N.length + 25 := by
      simpa using lt_of_le_of_ne hpre.length_le fun h => hne (hpre.eq_of_length h)
    have hnoise : s.feed (N.take pre.length) = s :=
      feed_noise h0 fun b hb => hN b (List.mem_of_mem_take hb)
    have hfeed : s.feed pre = s.loaded F (pre.length - N.length) := by
      have hpre := (List.prefix_iff_eq_take.1 hpre).trans List.take_append
      calc s.feed pre = s.feed (F.toList.take (pre.length - N.length)) := by
            rw [congrArg s.feed hpre, feed_append, hnoise]
        _ = s.loaded F (pre.length - N.length) := feed_take h0 hF (by omega)
    exact ⟨_, _, (execAll_rxBytes pre hf hp).trans (congrArg _ hfeed)⟩
  · rw [execAll_rxBytes _ hf hp, feed_append, feed_noise h0 hN, feed_frame h0 hF]
    rfl

/-- A later frame of the tick replaces an earlier one, and the block is then already Connected (R129). -/
theorem completed_completed (s : State) (F G : Frame) :
    (s.completed G).completed F = s.completed F := by
  simp [State.completed]

theorem feed_frames {s : State} {Fs : List Frame} {F : Frame} (h0 : s.idx = 0)
    (h : ∀ G ∈ Fs ++ [F], Marked s.cfg G) :
    s.feed ((Fs ++ [F]).flatMap Vector.toList) = s.completed F := by
  induction Fs generalizing s with
  | nil => simpa using feed_frame h0 (h F (by simp))
  | cons G Fs ih =>
    obtain ⟨hG, h⟩ := List.forall_mem_cons.1 h
    rw [← completed_cfg s G] at h
    rw [List.cons_append, List.flatMap_cons, feed_append, feed_frame h0 hG,
      ih (s := s.completed G) rfl h, completed_completed]

/-- Settles O23. -/
theorem lastFrameOfTickStays : Obligations.LastFrameOfTickStays := by
  intro s Fs F hf hp h0 h
  have hbytes : (Fs ++ [F]).flatMap rxFrame = rxBytes ((Fs ++ [F]).flatMap Vector.toList) :=
    List.map_flatMap.symm
  rw [hbytes, execAll_rxBytes _ hf hp, feed_frames h0 h]
  rfl

end Sys2Proof.Machine
end

section
/-! The proofs about the tick around the synchronizer (43_tick.md R170 to R175, 41_synchronizer.md R130
to R134): a frame in two ticks, what TICK_END does, and a block with idle ticks only. -/

namespace Sys2Proof.Machine

/-! ### The end of a tick and the next (R170, R171) -/

theorem exec_tickBegin {s : State} (hf : s.fault = false) (hp : s.phase = .idle) (t : Time) :
    exec (.tickBegin t) s = .next { s with now := t, frameDone := false, phase := .rx } :=
  exec_of_legal hf (p := .rx) (by rw [hp]; rfl)

theorem exec_tickEnd {s : State} (hf : s.fault = false) (hp : s.phase.takesCommand) :
    exec .tickEnd s = .next (ruleOf .tickEnd s) :=
  exec_of_legal hf (p := .idle) (by obtain hp | hp := hp <;> rw [hp] <;> rfl)

/-- The state that TICK_END, and TICK_BEGIN of the next tick, leave (R170, R171). -/
def State.nextTick (s : State) (t : Time) : State :=
  { ruleOf .tickEnd s with now := t, frameDone := false, phase := .rx }

theorem execAll_nextTick {s : State} (hf : s.fault = false) (hp : s.phase = .rx) (t : Time) :
    execAll [.tickEnd, .tickBegin t] s = .next (s.nextTick t) := by
  have hfault : (ruleOf .tickEnd s).fault = false := by rw [ruleOf_tickEnd_eq]; exact hf
  have hphase : (ruleOf .tickEnd s).phase = .idle := by rw [ruleOf_tickEnd_eq]
  rw [execAll_cons (exec_tickEnd hf (.inl hp)), execAll_cons (exec_tickBegin hfault hphase t)]
  rfl

section nextTickFields
variable (s : State) (t : Time)
theorem nextTick_inCh : (s.nextTick t).inCh = s.inCh := by rw [State.nextTick, ruleOf_tickEnd_eq]
theorem nextTick_buf : (s.nextTick t).buf = s.buf := by rw [State.nextTick, ruleOf_tickEnd_eq]
theorem nextTick_idx : (s.nextTick t).idx = s.idx := by rw [State.nextTick, ruleOf_tickEnd_eq]
theorem nextTick_cfg : (s.nextTick t).cfg = s.cfg := by rw [State.nextTick, ruleOf_tickEnd_eq]
theorem nextTick_fault : (s.nextTick t).fault = s.fault := by rw [State.nextTick, ruleOf_tickEnd_eq]
theorem nextTick_phase : (s.nextTick t).phase = .rx := rfl
theorem nextTick_now : (s.nextTick t).now = t := rfl
theorem nextTick_frameDone : (s.nextTick t).frameDone = false := rfl
end nextTickFields

/-- The CHANNELS event of a tick speaks of the table and the outputs after Apply (R172, R174). -/
theorem channelsEvent_applyOverrides (s : State) :
    s.applyOverrides.channelsEvent
      = .channels s.now s.inCh (Vector.ofFn (settledOut s))
          ((indices.filter fun i => (settledRecord s i).active).map chanNumber)
          s.frameLost s.failsafe := by
  simp [applyOverrides_eq, State.channelsEvent, State.activeChannels]

/-- The end of a tick neither reads nor writes the synchronizer's buffer and index (R130). -/
theorem ruleOf_tickEnd_link (s : State) (B : Frame) (j : BitVec 5) :
    ruleOf .tickEnd { s with buf := B, idx := j } = { ruleOf .tickEnd s with buf := B, idx := j } := by
  rw [ruleOf_tickEnd_eq, ruleOf_tickEnd_eq, tickEvents, tickEvents, channelsEvent_applyOverrides,
    channelsEvent_applyOverrides]
  rfl

/-! ### Bytes of a frame in two ticks (R130) -/

theorem nextTick_loaded (s : State) (F : Frame) (n : Nat) (t : Time) :
    (s.loaded F n).nextTick t = (s.nextTick t).loaded F n := by
  rw [State.loaded, State.loaded, nextTick_buf, State.nextTick, State.nextTick, ruleOf_tickEnd_link]

/-- A state that holds the first bytes of a frame completes it with the others. -/
theorem feed_loaded_drop {s : State} {F : Frame} (h0 : s.idx = 0) (hF : Marked s.cfg F) {n : Nat}
    (hn : n ≤ 24) : (s.loaded F n).feed (F.toList.drop n) = s.completed F := by
  rw [← feed_take h0 hF hn, ← feed_append, List.take_append_drop, feed_frame h0 hF]

/-- Settles O24: the frame's first bytes are as good as received in the second tick, since the end of a
tick does not touch them. -/
theorem partialFrameCarriesOver : Obligations.PartialFrameCarriesOver := by
  intro s t hf hp
  refine ⟨⟨_, execAll_nextTick hf hp t, nextTick_idx s t, nextTick_buf s t⟩, ?_⟩
  intro F m h0 hheader hfooter hm
  have hF : Marked s.cfg F := ⟨hheader, hfooter⟩
  have hm : m ≤ 24 := Nat.le_of_lt_succ hm
  have hfirst : execAll (rxBytes (F.toList.take m)) s = .next (s.loaded F m) := by
    rw [execAll_rxBytes _ hf hp, feed_take h0 hF hm]
  have hticks : execAll [.tickEnd, .tickBegin t] (s.loaded F m) = .next ((s.nextTick t).loaded F m) := by
    rw [execAll_nextTick (s := s.loaded F m) hf hp, nextTick_loaded]
  have hinCh := nextTick_inCh s t
  have hidx := (nextTick_idx s t).trans h0
  have hcfg := nextTick_cfg s t
  have hfault := (nextTick_fault s t).trans hf
  have hphase := nextTick_phase s t
  have hnow := nextTick_now s t
  have hdone := nextTick_frameDone s t
  generalize s.nextTick t = u at *
  refine ⟨u.loaded F m, u.completed F, (execAll_append hfirst _).trans hticks, hdone, hinCh, ?_,
    rfl, rfl, rfl, rfl, rfl, hnow, rfl⟩
  rw [execAll_rxBytes _ (s := u.loaded F m) hfault hphase, feed_loaded_drop hidx (hcfg ▸ hF) hm]

/-! ### TICK_END's effect, and what it transmits (R150, R171 to R175) -/

/-- Settles O43: the statement writes out `settledRecord`, `settledOut` and `silenceDue`. -/
theorem tickEndEffect : Obligations.TickEndEffect := by
  intro s hf hp expired active out silent
  rw [exec_tickEnd hf hp, ruleOf_tickEnd_eq, tickEvents, channelsEvent_applyOverrides,
    ← List.append_assoc s.tel]
  rfl

theorem ruleOf_ftx_of_ne_tickEnd {i : Instr} (h : i ≠ .tickEnd) (s : State) :
    (ruleOf i s).ftx = s.ftx := by
  cases i with
  | rxByte b => exact syncByte_ftx s b
  | tickEnd => exact absurd rfl h
  | _ => rw [ruleOf_frame_of_keepsLink rfl s]

/-- In a tick with a completed frame the link is not silent (R133). -/
theorem silenceDue_of_completedThisTick {s : State} (h : s.CompletedThisTick) (hp : s.phase ≠ .idle)
    (hd : s.frameDone = true) : silenceDue s = false := by
  obtain ⟨hc, hl⟩ := h hp hd
  simp [silenceDue, hc, hl, elapsed]

/-- Settles O49: only TICK_END's rule writes `ftx`, and only for a completed frame, whose tick is not
silent. -/
theorem transmitsOnlyWithCompletedFrame : Obligations.TransmitsOnlyWithCompletedFrame := by
  intro w s t hs h hne
  obtain ⟨-, rfl⟩ | ⟨-, c, rfl⟩ | ⟨-, i, p, hdec, hlegal, rfl⟩ := transact_cases h
  · exact absurd rfl hne
  · exact absurd rfl hne
  · by_cases hi : i = .tickEnd
    · subst hi
      have hopen : s.phase ≠ .idle := phase_ne_idle_of_phaseAfter (i := .tickEnd) nofun hlegal
      have hd : s.frameDone = true := by
        by_contra hd
        exact hne (by simp [ruleOf_tickEnd_eq, hd])
      have hc : s.connected = true := (hs hopen hd).1
      have hsilent := silenceDue_of_completedThisTick hs hopen hd
      rw [ruleOf_tickEnd_eq]
      exact ⟨hdec, hd, by simp [hc, hsilent], by simp [hd]⟩
    · exact absurd (ruleOf_ftx_of_ne_tickEnd hi s) hne

/-! ### Idle ticks after reset (R134) -/

/-- A block that has had only idle ticks since reset, the last at time `y`, and no status yet. -/
def State.idledTo (c : Config) (y : Time) : State := { State.resetWith c with now := y }

/-- The time since reset that the first status of an idle block waits for (R134). -/
def firstStatusLimit (c : Config) : Time := if c.initConnected then c.discMs else c.renotifyMs

theorem execAll_idleTick {s : State} (hf : s.fault = false) (hp : s.phase = .idle) (x : Time) :
    execAll (idleTick x) s
      = .next (ruleOf .tickEnd { s with now := x, frameDone := false, phase := .rx }) := by
  rw [idleTick, tick, List.append_nil, List.singleton_append, execAll_cons (exec_tickBegin hf hp x)]
  exact execAll_cons (exec_tickEnd (s := { s with now := x, frameDone := false, phase := .rx }) hf
    (.inl rfl)) []

/-- An idle tick before the first status: the time passes, and the watchdog has the silence since
reset to report. -/
theorem execAll_idleTick_idledTo (c : Config) (x y : Time) :
    execAll (idleTick x) (State.idledTo c y)
      = .next { State.idledTo c x with
          connected := c.initConnected && !decide (firstStatusLimit c < x)
          lastDiscNotify := if firstStatusLimit c < x then x else 0
          tel := if firstStatusLimit c < x then [.status x false] else [] } := by
  generalize hs : ({ State.idledTo c y with now := x, frameDone := false, phase := .rx } : State) = s
  have hdue : silenceDue s = decide (firstStatusLimit c < x) := by
    subst hs
    cases hc : c.initConnected <;>
      simp [silenceDue, firstStatusLimit, State.idledTo, State.resetWith, elapsed, hc]
  have hov : Vector.ofFn (settledRecord s) = s.ov := by
    subst hs
    refine Vector.ext fun k hk => ?_
    simp [settledRecord, State.idledTo, State.resetWith, OvRecord.atReset]
  have hout : Vector.ofFn (settledOut s) = s.outCh := by
    subst hs
    refine Vector.ext fun k hk => ?_
    simp [settledOut, settledRecord, State.idledTo, State.resetWith, OvRecord.atReset]
  have hevents : tickEvents s = [] := by
    subst hs
    simp [tickEvents, expiryEvents, State.expired, State.idledTo, State.resetWith, OvRecord.atReset]
  rw [execAll_idleTick rfl rfl, hs, ruleOf_tickEnd_eq, hdue, hov, hout, hevents]
  subst hs
  simp [State.idledTo, State.resetWith]

theorem execAll_idleTicks {c : Config} {ts : List Time} (h : ∀ x ∈ ts, x ≤ firstStatusLimit c)
    (y : Time) :
    ∃ z, execAll (ts.flatMap idleTick) (State.idledTo c y) = .next (State.idledTo c z) := by
  induction ts generalizing y with
  | nil => exact ⟨y, rfl⟩
  | cons x ts ih =>
    obtain ⟨hx, h⟩ := List.forall_mem_cons.1 h
    have htick : execAll (idleTick x) (State.idledTo c y) = .next (State.idledTo c x) := by
      simp only [execAll_idleTick_idledTo, BitVec.not_lt.2 hx, decide_false, Bool.not_false,
        Bool.and_true, if_false]
      rfl
    rw [List.flatMap_cons, execAll_append htick]
    exact ih h x

/-- Settles O48: the idle ticks up to the limit change only the time, and the first past it reports. -/
theorem firstStatusAfterReset : Obligations.FirstStatusAfterReset := by
  intro b ts t limit hts ht
  have hlimit : (firstStatusLimit { Config.stated with initConnected := b }).toNat = limit := by
    cases b <;> rfl
  obtain ⟨z, hz⟩ := execAll_idleTicks (c := { Config.stated with initConnected := b }) (ts := ts)
    (fun x hx => BitVec.le_def.2 (hlimit ▸ hts x hx)) 0
  have ht : firstStatusLimit { Config.stated with initConnected := b } < t :=
    BitVec.lt_def.2 (hlimit ▸ ht)
  exact ⟨_, _, hz, rfl, execAll_idleTick_idledTo _ t z, by simp [ht], by simp [ht]⟩

end Sys2Proof.Machine
end

section
/-! The proofs about the override table's commands (42_override.md R140 to R149, R158). -/

namespace Sys2Proof.Machine

/-! ### Commands in phase, and their operands (R81, R140) -/

/-- A command whose row of the phase table allows RX and CMD runs its rule in either. -/
theorem exec_of_takesCommand {i : Instr} {s : State} {p : Phase} (hf : s.fault = false)
    (hp : s.phase.takesCommand) (hrx : phaseAfter i.op .rx = some p)
    (hcmd : phaseAfter i.op .cmd = some p) : exec i s = .next (ruleOf i s) := by
  obtain hp | hp := hp
  · exact exec_of_legal hf (hp ▸ hrx)
  · exact exec_of_legal hf (hp ▸ hcmd)

theorem exec_setmItem {s : State} (hf : s.fault = false) (hp : s.phase = .batch) (n v : Int) :
    exec (.setmItem n v) s = .next (State.ruleSetmItem n v s) :=
  exec_of_legal (i := .setmItem n v) (p := .batch) hf (by rw [hp]; rfl)

theorem validCh_eq_true_iff {n : Int} : validCh n = true ↔ 1 ≤ n ∧ n ≤ 16 := decide_eq_true_iff

theorem validSet_eq_true_iff {n v : Int} :
    validSet n v = true ↔ (1 ≤ n ∧ n ≤ 16) ∧ 0 ≤ v ∧ v ≤ 2047 := by
  rw [validSet, Bool.and_eq_true_iff, validCh_eq_true_iff, validVal, decide_eq_true_iff]

theorem validCh_chanNumber (i : Fin 16) : validCh (chanNumber i) = true :=
  (validCh_iff _).2 ⟨i, rfl⟩

theorem validSet_chanNumber (i : Fin 16) (v : Chan) : validSet (chanNumber i) v.toNat = true :=
  Bool.and_eq_true_iff.2 ⟨validCh_chanNumber i, (validVal_iff _).2 ⟨v, rfl⟩⟩

theorem activate_chanNumber (s : State) (i : Fin 16) (v : Chan) :
    s.activate (chanNumber i) v.toNat = s.setRecord i ⟨true, v, s.now⟩ := by
  rw [State.activate, chanIndex_chanNumber, truncChan_toNat]

theorem rejection_of_channel {n : Int} (h : ¬ (1 ≤ n ∧ n ≤ 16)) (op : Op) (v : Int) :
    rejection op n v = .error .invalidChannel op.code n :=
  if_neg fun hn => h (validCh_eq_true_iff.1 hn)

theorem rejection_of_value {n : Int} (h : 1 ≤ n ∧ n ≤ 16) (op : Op) (v : Int) :
    rejection op n v = .error .invalidValue op.code v :=
  if_pos (validCh_eq_true_iff.2 h)

/-! ### SET (R142, R143) -/

theorem exec_set {s : State} (hf : s.fault = false) (hp : s.phase.takesCommand) (n v : Int) :
    exec (.set n v) s = .next (State.ruleSet n v s) :=
  exec_of_takesCommand (i := .set n v) hf hp rfl rfl

/-- Settles O32. -/
theorem setWritesRecord : Obligations.SetWritesRecord := by
  intro s i v hf hp
  have hrule := ruleSet_of_valid s (validSet_chanNumber i v)
  rw [activate_chanNumber, truncChan_toNat] at hrule
  exact (exec_set hf hp _ _).trans (congrArg _ hrule)

/-- Settles O33. -/
theorem setReportsInvalidOperand : Obligations.SetReportsInvalidOperand := by
  intro s n v hf hp
  rw [exec_set hf hp]
  refine ⟨fun hn => ?_, fun h1 h16 hv => ?_⟩
  · rw [ruleSet_of_invalid s fun h => hn (validSet_eq_true_iff.1 h).1, rejection_of_channel hn]
    rfl
  · rw [ruleSet_of_invalid s fun h => hv (validSet_eq_true_iff.1 h).2, rejection_of_value ⟨h1, h16⟩]
    rfl

/-! ### SetMany (R144 to R146) -/

/-- Settles O34. -/
theorem batchOpensAndCloses : Obligations.BatchOpensAndCloses := fun _ hf =>
  ⟨fun hp => exec_of_takesCommand (i := .setmBegin) hf hp rfl rfl,
    fun hp => exec_of_legal (i := .setmEnd) (p := .cmd) hf (hp ▸ rfl)⟩

/-- Settles O35. -/
theorem setmItemWritesAndCounts : Obligations.SetmItemWritesAndCounts := by
  intro s i v hf hp hc
  have hrule := ruleSetmItem_of_valid (validSet_chanNumber i v) hc
  rw [activate_chanNumber] at hrule
  exact (exec_setmItem hf hp _ _).trans (congrArg _ hrule)

/-- Settles O36: the operands are checked before the count. -/
theorem setmItemReportsOrOverflows : Obligations.SetmItemReportsOrOverflows := by
  intro s n v hf hp
  rw [exec_setmItem hf hp]
  refine ⟨fun hn => ?_, fun h1 h16 hv => ?_, fun h1 h16 h0 h2047 hc => ?_⟩
  · rw [ruleSetmItem_of_invalid s fun h => hn (validSet_eq_true_iff.1 h).1, rejection_of_channel hn]
    rfl
  · rw [ruleSetmItem_of_invalid s fun h => hv (validSet_eq_true_iff.1 h).2,
      rejection_of_value ⟨h1, h16⟩]
    rfl
  · rw [ruleSetmItem_of_full (validSet_eq_true_iff.2 ⟨⟨h1, h16⟩, h0, h2047⟩) hc]
    rfl

/-! ### CLEAR and CLEAR_ALL (R147, R148) -/

theorem exec_clear {s : State} (hf : s.fault = false) (hp : s.phase.takesCommand) (n : Int) :
    exec (.clear n) s = .next (State.ruleClear n s) :=
  exec_of_takesCommand (i := .clear n) hf hp rfl rfl

theorem ruleClear_chanNumber (s : State) (i : Fin 16) :
    State.ruleClear (chanNumber i) s
      = ((s.deactivate i).emitTel (.channelCleared (chanNumber i) s.now)).setPhase .cmd := by
  rw [ruleClear_of_valid s (validCh_chanNumber i), chanIndex_chanNumber]
  rfl

/-- Settles O37. -/
theorem clearDeactivatesRecord : Obligations.ClearDeactivatesRecord := by
  intro s hf hp
  refine ⟨fun i => ?_, fun n hn => ?_⟩
  · exact (exec_clear hf hp _).trans (congrArg _ (ruleClear_chanNumber s i))
  · rw [exec_clear hf hp, ruleClear_of_invalid s fun h => hn (validCh_eq_true_iff.1 h)]
    rfl

theorem exec_clearAll {s : State} (hf : s.fault = false) (hp : s.phase.takesCommand) :
    exec .clearAll s = .next (ruleOf .clearAll s) :=
  exec_of_takesCommand (i := .clearAll) hf hp rfl rfl

/-- CLEAR_ALL, its loop having run (R148). -/
theorem ruleOf_clearAll_eq (s : State) :
    ruleOf .clearAll s = { s with
      ov := Vector.ofFn fun i : Fin 16 => { s.ov[i] with active := false }
      tel := s.tel ++ [.allCleared s.now]
      phase := .cmd } := by
  simp only [ruleOf, deactivateAll_eq, State.emitTel, State.setPhase]

/-- Settles O38. -/
theorem clearAllDeactivatesEveryRecord : Obligations.ClearAllDeactivatesEveryRecord :=
  fun s hf hp => (exec_clearAll hf hp).trans (congrArg _ (ruleOf_clearAll_eq s))

/-! ### STATUS (R149) -/

theorem exec_status {s : State} (hf : s.fault = false) (hp : s.phase.takesCommand) :
    exec .status s = .next { s with
      tel := s.tel ++ [.overrideStatus s.now s.statusList], phase := .cmd } :=
  exec_of_takesCommand (i := .status) hf hp rfl rfl

/-- Settles O39: selecting the active records and then listing them is doing both at once. -/
theorem statusListsActiveRecords : Obligations.StatusListsActiveRecords := by
  intro s hf hp
  rw [exec_status hf hp, State.statusList, ← List.filterMap_eq_map', List.filterMap_filter]
  rfl

/-! ### The laws of the table (R158) -/

theorem statusList_of_inactive {s : State} (h : ∀ i : Fin 16, s.ov[i].active = false) :
    s.statusList = [] := by
  rw [State.statusList, List.filter_eq_nil_iff.2 fun i _ => by rw [h i]; exact Bool.false_ne_true,
    List.map_nil]

theorem deactivate_of_inactive {s : State} {i : Fin 16} (h : s.ov[i].active = false) :
    s.deactivate i = s := by
  have hrecord : ({ s.ov[i] with active := false } : OvRecord) = s.ov[i] := by rw [← h]
  rw [State.deactivate, hrecord, State.setRecord]
  simp

/-- A SetMany's CHANNELS_SET is its last event, and counts its valid elements (R146). -/
theorem channelsSet_of_setMany (s : State) (items : List (Int × Int)) :
    (ruleOf .setmEnd ((ruleOf .setmBegin s).afterItems items)).tel.getLast?
      = some (.channelsSet (BitVec.ofNat 32 (countValid items)) s.now) := by
  have hcount : ((ruleOf .setmBegin s).afterItems items).batchCount
      = BitVec.ofNat 32 (countValid items) := BitVec.zero_add _
  rw [← hcount]
  exact List.getLast?_concat

theorem countValid_eq (items : List (Int × Int)) :
    countValid items
      = items.countP fun p => decide (1 ≤ p.1 ∧ p.1 ≤ 16 ∧ 0 ≤ p.2 ∧ p.2 ≤ 2047) := by
  refine List.countP_congr fun p _ => ?_
  rw [validSet_eq_true_iff, decide_eq_true_iff, and_assoc]

/-- A SET, SETM_ITEM or CLEAR with operands that fail their check changes `tel` and the phase alone
(R158, law 3). -/
theorem frame_of_failingCommand {s t : State} {n v : Int} (hf : s.fault = false)
    (h : (s.phase.takesCommand ∧ ¬ (1 ≤ n ∧ n ≤ 16 ∧ 0 ≤ v ∧ v ≤ 2047) ∧ exec (.set n v) s = .next t)
      ∨ (s.phase = .batch ∧ ¬ (1 ≤ n ∧ n ≤ 16 ∧ 0 ≤ v ∧ v ≤ 2047)
        ∧ exec (.setmItem n v) s = .next t)
      ∨ (s.phase.takesCommand ∧ ¬ (1 ≤ n ∧ n ≤ 16) ∧ exec (.clear n) s = .next t)) :
    t = { s with tel := t.tel, phase := t.phase } := by
  obtain ⟨hp, hbad, hexec⟩ | ⟨hp, hbad, hexec⟩ | ⟨hp, hbad, hexec⟩ := h
  · rw [exec_set hf hp, ruleSet_of_invalid s fun hv => hbad (and_assoc.1 (validSet_eq_true_iff.1 hv))]
      at hexec
    cases hexec
    rfl
  · rw [exec_setmItem hf hp,
      ruleSetmItem_of_invalid s fun hv => hbad (and_assoc.1 (validSet_eq_true_iff.1 hv))] at hexec
    cases hexec
    rfl
  · rw [exec_clear hf hp, ruleClear_of_invalid s fun hv => hbad (validCh_eq_true_iff.1 hv)] at hexec
    cases hexec
    rfl

/-- Settles O40, law by law. -/
theorem lawsOfOverrideTable : Obligations.LawsOfOverrideTable := by
  refine ⟨fun s hf hp => ?_, fun s i hf hp hi => ?_, fun _ _ _ _ hf => frame_of_failingCommand hf,
    fun s items hf hp hlen => ?_⟩
  · have hfault : (ruleOf .clearAll s).fault = false := by rw [ruleOf_clearAll_eq]; exact hf
    have hinactive : ∀ i : Fin 16, (ruleOf .clearAll s).ov[i].active = false := fun i => by
      simp [ruleOf_clearAll_eq]
    refine ⟨_, (execAll_cons (exec_clearAll hf hp) _).trans
      (execAll_cons (exec_status hfault (.inr rfl)) []), ?_⟩
    rw [statusList_of_inactive hinactive, ruleOf_clearAll_eq]
    exact List.append_assoc _ _ _
  · refine (exec_clear hf hp (chanNumber i)).trans (congrArg _ ?_)
    rw [ruleClear_chanNumber, deactivate_of_inactive hi]
    rfl
  · exact ⟨_, execAll_setMany hf hp hlen, countValid_eq items ▸ channelsSet_of_setMany s items⟩

end Sys2Proof.Machine
end

section
/-! The proofs about the expiry of an override (42_override.md R150 to R155, R206): what TICK_END does
to one channel, its expiry events, and a record's life through the ticks of the grammar. -/

namespace Sys2Proof.Machine

/-! ### TICK_END on one channel (R150, R151) -/

theorem getElem_ov_tickEnd (s : State) (i : Fin 16) :
    (ruleOf .tickEnd s).ov[i] = settledRecord s i := by
  simp [ruleOf_tickEnd_eq]

theorem getElem_outCh_tickEnd (s : State) (i : Fin 16) :
    (ruleOf .tickEnd s).outCh[i] = settledOut s i := by
  simp [ruleOf_tickEnd_eq]

theorem settled_of_living {s : State} {i : Fin 16} (hactive : s.ov[i].active = true)
    (h : ¬ s.expired i = true) :
    settledRecord s i = s.ov[i] ∧ settledOut s i = s.ov[i].value := by
  have hrecord : settledRecord s i = s.ov[i] := by simp [settledRecord, h]
  exact ⟨hrecord, by rw [settledOut, hrecord, if_pos hactive]⟩

theorem settled_of_expired {s : State} {i : Fin 16} (h : s.expired i = true) :
    (settledRecord s i).active = false ∧ settledOut s i = s.inCh[i] := by
  have hrecord : (settledRecord s i).active = false := by simp [settledRecord, h]
  exact ⟨hrecord, by rw [settledOut, hrecord]; rfl⟩

theorem expired_iff {s : State} {i : Fin 16} :
    s.expired i = true ↔ s.ov[i].active = true ∧ s.cfg.ovrLifeMs < s.now - s.ov[i].setAt := by
  rw [State.expired, Bool.and_eq_true_iff, decide_eq_true_iff, elapsed]

/-- With the stated lifetime an active record expires from 2001 ms on (R151). -/
theorem expired_iff_of_stated {s : State} {i : Fin 16} {v : Chan} {t0 : Time}
    (hlife : s.cfg.ovrLifeMs = 2000) (hrecord : s.ov[i] = ⟨true, v, t0⟩) :
    s.expired i = true ↔ 2000 < (s.now - t0).toNat := by
  rw [expired_iff, hrecord, hlife, BitVec.lt_def]
  exact and_iff_right rfl

/-- Settles O44: on either side of the boundary TICK_END leaves the settled record and output. -/
theorem expiryBoundary : Obligations.ExpiryBoundary := by
  intro s i v t0 hf hp hlife hrecord
  have hexpired := expired_iff_of_stated hlife hrecord
  have hliving (h : (s.now - t0).toNat ≤ 2000) :
      (ruleOf .tickEnd s).ov[i].active = true ∧ (ruleOf .tickEnd s).outCh[i] = v := by
    obtain ⟨hr, ho⟩ := settled_of_living (i := i) (by rw [hrecord]) (hexpired.not.2 h.not_gt)
    rw [getElem_ov_tickEnd, getElem_outCh_tickEnd, hr, ho, hrecord]
    exact ⟨rfl, rfl⟩
  have hpassed (h : 2000 < (s.now - t0).toNat) :
      (ruleOf .tickEnd s).ov[i].active = false ∧ (ruleOf .tickEnd s).outCh[i] = s.inCh[i] := by
    rw [getElem_ov_tickEnd, getElem_outCh_tickEnd]
    exact settled_of_expired (hexpired.2 h)
  refine ⟨_, exec_tickEnd hf hp, hliving, hpassed, fun h => (hliving ?_).2, fun h => (hpassed ?_).2⟩
  all_goals rw [h, add_comm t0, BitVec.add_sub_cancel]; decide

/-! ### The expiry events of a tick (R150, R154) -/

/-- The event reports the expiry of channel `i` (R150). -/
def reportsExpiry (i : Fin 16) (e : Event) : Bool :=
  match e with
  | .overrideExpired n _ => n == i.val + 1
  | _ => false

/-- The events that TICK_END appends (R172). -/
def tickEndEvents (s : State) : List Event :=
  tickEvents s ++ if silenceDue s then [.status s.now false] else []

theorem tel_tickEnd (s : State) : (ruleOf .tickEnd s).tel = s.tel ++ tickEndEvents s := by
  rw [ruleOf_tickEnd_eq, tickEndEvents, List.append_assoc]

theorem countP_expiryEvents (s : State) (i : Fin 16) :
    (expiryEvents s indices).countP (reportsExpiry i) = if s.expired i then 1 else 0 := by
  have hreports : (reportsExpiry i ∘ fun j => Event.overrideExpired (chanNumber j) s.now)
      = (· == i) := by
    funext j
    simp [reportsExpiry, chanNumber, Fin.ext_iff]
  rw [expiryEvents, List.countP_map, hreports]
  change (indices.filter s.expired).count i = _
  split
  next h => rw [List.count_filter h]; exact List.count_finRange i
  next h => exact List.count_eq_zero.2 fun hmem => h (List.mem_filter.1 hmem).2

/-- TICK_END reports the expiry of a channel once, or not at all: neither telemetry nor the watchdog
reports one. -/
theorem countP_tickEndEvents (s : State) (i : Fin 16) :
    (tickEndEvents s).countP (reportsExpiry i) = if s.expired i then 1 else 0 := by
  have htelemetry : (if s.frameDone then [s.applyOverrides.channelsEvent] else []).countP
      (reportsExpiry i) = 0 := by
    split <;> rfl
  have hwatchdog : (if silenceDue s then [Event.status s.now false] else []).countP
      (reportsExpiry i) = 0 := by
    split <;> rfl
  rw [tickEndEvents, tickEvents, List.countP_append, List.countP_append, htelemetry, hwatchdog,
    countP_expiryEvents, Nat.add_zero]

/-! ### What a rule can do to one record (R28) -/

theorem ruleSet_ov (n v : Int) (s : State) :
    (State.ruleSet n v s).ov = writeItem s.now s.ov (n, v) := by
  by_cases hv : validSet n v = true
  · rw [ruleSet_of_valid s hv, writeItem, if_pos hv]; rfl
  · rw [ruleSet_of_invalid s hv, writeItem, if_neg hv]; rfl

theorem ruleSetmItem_ov (n v : Int) (s : State) :
    (State.ruleSetmItem n v s).ov = s.ov
      ∨ (State.ruleSetmItem n v s).ov = writeItem s.now s.ov (n, v) := by
  by_cases hc : s.batchCount = 0xFFFFFFFF
  · by_cases hv : validSet n v = true
    · rw [ruleSetmItem_of_full hv hc]; exact .inl rfl
    · rw [ruleSetmItem_of_invalid s hv]; exact .inl rfl
  · rw [ruleSetmItem_eq hc]; exact .inr rfl

/-- The transaction is a SET or SETM_ITEM that writes the record of channel `i`. -/
def Activates (i : Fin 16) (j : Instr) : Prop :=
  ∃ n v, (j = .set n v ∨ j = .setmItem n v) ∧ writesTo i (n, v) = true

/-- The transaction is one that may deactivate the record of channel `i`. -/
def MayDeactivate (i : Fin 16) (j : Instr) : Prop :=
  j = .clear (chanNumber i) ∨ j = .clearAll ∨ j = .tickEnd

theorem writeItem_cases (now : Time) (ov : Vector OvRecord 16) (i : Fin 16) (n v : Int) :
    (writeItem now ov (n, v))[i] = ov[i] ∨ writesTo i (n, v) = true := by
  rw [getElem_writeItem]
  split
  next h => exact .inr h
  next => exact .inl rfl

theorem deactivate_record (s : State) (i k : Fin 16) :
    (s.deactivate k).ov[i] = if k = i then { s.ov[i] with active := false } else s.ov[i] := by
  rw [State.deactivate, State.setRecord_ov, getElem_set_record]
  split
  next h => rw [h]
  next => rfl

/-- A rule leaves a record alone, or deactivates it, or is a command that sets it. -/
theorem ruleOf_record_cases (i : Fin 16) (j : Instr) (s : State) :
    (ruleOf j s).ov[i] = s.ov[i]
      ∨ (MayDeactivate i j ∧ ((ruleOf j s).ov[i].active = true → s.ov[i].active = true))
      ∨ Activates i j := by
  cases j with
  | tickBegin | setmBegin | setmEnd | status => exact .inl rfl
  | rxByte b => exact .inl (congrArg (·[i]) (syncByte_ov s b))
  | set n v =>
    rw [ruleOf, ruleSet_ov]
    exact (writeItem_cases s.now s.ov i n v).imp_right fun h => .inr ⟨n, v, .inl rfl, h⟩
  | setmItem n v =>
    obtain hov | hov := ruleSetmItem_ov n v s
    · exact .inl (congrArg (·[i]) hov)
    · rw [ruleOf, hov]
      exact (writeItem_cases s.now s.ov i n v).imp_right fun h => .inr ⟨n, v, .inr rfl, h⟩
  | clear n =>
    by_cases hn : validCh n = true
    · obtain ⟨k, rfl⟩ := (validCh_iff n).1 hn
      rw [ruleOf, ruleClear_chanNumber, State.setPhase_ov, State.emitTel_ov, deactivate_record]
      split
      next h => exact .inr (.inl ⟨.inl (by rw [h]), nofun⟩)
      next => exact .inl rfl
    · rw [ruleOf, ruleClear_of_invalid s hn]
      exact .inl rfl
  | clearAll => exact .inr (.inl ⟨.inr (.inl rfl), by simp [ruleOf_clearAll_eq]⟩)
  | tickEnd =>
    refine .inr (.inl ⟨.inr (.inr rfl), fun h => ?_⟩)
    rw [getElem_ov_tickEnd] at h
    exact (Bool.and_eq_true_iff.1 h).1

/-- Settles O45: the tick's events are counted, and no rule but SET's and SETM_ITEM's sets the active
flag. -/
theorem expiryEmittedOncePerActivation : Obligations.ExpiryEmittedOncePerActivation := by
  refine ⟨fun s i hf hp => ?_, fun w s t i h hs ht => ?_⟩
  · have hcount := countP_tickEndEvents s i
    refine ⟨_, tickEndEvents s, exec_tickEnd hf hp, tel_tickEnd s, fun hactive hlife => ?_,
      fun h => ?_⟩
    · have hexpired := expired_iff.2 ⟨hactive, hlife⟩
      rw [getElem_ov_tickEnd]
      exact ⟨hcount.trans (if_pos hexpired), (settled_of_expired hexpired).1⟩
    · exact hcount.trans (if_neg fun hexpired => h (expired_iff.1 hexpired))
  · have hset {u : State} (hu : u.ov[i] = s.ov[i]) : ¬ u.ov[i].active = true := by
      rw [hu, hs]; exact Bool.false_ne_true
    obtain ⟨-, rfl⟩ | ⟨-, c, rfl⟩ | ⟨-, j, -, hd, -, rfl⟩ := transact_cases h
    · exact absurd ht (hset rfl)
    · exact absurd ht (hset rfl)
    · obtain hkept | ⟨-, hactive⟩ | ⟨n, v, hj, hw⟩ := ruleOf_record_cases i j s
      · exact absurd ht (hset hkept)
      · exact absurd (hactive ht) (hset rfl)
      · obtain ⟨hn, hv⟩ := of_decide_eq_true hw
        obtain ⟨x, hx⟩ := (validVal_iff v).1 (decide_eq_true hv)
        simp only at hn hx
        subst hn hx
        obtain rfl | rfl := hj
        · exact ⟨x, .inl hd⟩
        · exact ⟨x, .inr hd⟩

/-! ### A record inside a tick that spares it (R153) -/

/-- The transaction can stand inside a tick, and does not write the record of channel `i`. -/
def SparesInTick (i : Fin 16) : Instr → Prop
  | .tickBegin _ | .tickEnd | .clearAll => False
  | .set n v | .setmItem n v => ¬ writesTo i (n, v) = true
  | .clear n => n ≠ chanNumber i
  | .rxByte _ | .setmBegin | .setmEnd | .status => True

/-- What such transactions keep: the record, the time, the parameters and the events so far. -/
structure KeptInTick (i : Fin 16) (s t : State) : Prop where
  record : t.ov[i] = s.ov[i]
  now : t.now = s.now
  cfg : t.cfg = s.cfg
  tel : s.tel <+: t.tel

theorem KeptInTick.refl (i : Fin 16) (s : State) : KeptInTick i s s :=
  ⟨rfl, rfl, rfl, List.prefix_rfl⟩

theorem KeptInTick.trans {i : Fin 16} {s t u : State} (h : KeptInTick i s t)
    (h' : KeptInTick i t u) : KeptInTick i s u :=
  ⟨h'.record.trans h.record, h'.now.trans h.now, h'.cfg.trans h.cfg, h.tel.trans h'.tel⟩

theorem ruleOf_record_of_spares {i : Fin 16} {j : Instr} (h : SparesInTick i j) (s : State) :
    (ruleOf j s).ov[i] = s.ov[i] := by
  obtain hkept | ⟨hj | hj | hj, -⟩ | ⟨n, v, hj | hj, hw⟩ := ruleOf_record_cases i j s
  · exact hkept
  · exact absurd rfl (hj ▸ h : SparesInTick i (.clear (chanNumber i)))
  · exact (hj ▸ h : SparesInTick i .clearAll).elim
  · exact (hj ▸ h : SparesInTick i .tickEnd).elim
  · exact absurd hw (hj ▸ h : SparesInTick i (.set n v))
  · exact absurd hw (hj ▸ h : SparesInTick i (.setmItem n v))

theorem ruleOf_now_of_spares {i : Fin 16} {j : Instr} (h : SparesInTick i j) (s : State) :
    (ruleOf j s).now = s.now := by
  cases j with
  | tickBegin | tickEnd => exact h.elim
  | rxByte b => exact syncByte_now s b
  | _ => exact (ruleOf_clock_of_keepsLink rfl (by simp) s).1

theorem keptInTick_exec {i : Fin 16} {j : Instr} (h : SparesInTick i j) {s t : State}
    (hexec : exec j s = .next t) : KeptInTick i s t := by
  obtain ⟨-, rfl⟩ | ⟨-, -, rfl⟩ | ⟨-, -, rfl⟩ := exec_cases hexec
  · exact .refl i t
  · exact ⟨rfl, rfl, rfl, List.prefix_rfl⟩
  · exact ⟨ruleOf_record_of_spares h s, ruleOf_now_of_spares h s, ruleOf_cfg j s,
      tel_prefix_ruleOf j s⟩

theorem execAll_next (is : List Instr) (s : State) : ∃ t, execAll is s = .next t := by
  induction is generalizing s with
  | nil => exact ⟨s, rfl⟩
  | cons j is ih =>
    obtain ⟨u, hu⟩ := exec_next j s
    rw [execAll_cons hu]
    exact ih u

theorem keptInTick_execAll {i : Fin 16} {is : List Instr} (h : ∀ j ∈ is, SparesInTick i j)
    {s t : State} (hexec : execAll is s = .next t) : KeptInTick i s t := by
  induction is generalizing s with
  | nil => cases hexec; exact .refl i t
  | cons j is ih =>
    obtain ⟨hj, his⟩ := List.forall_mem_cons.1 h
    obtain ⟨u, hu⟩ := exec_next j s
    rw [execAll_cons hu] at hexec
    exact (keptInTick_exec hj hu).trans (ih his hexec)

theorem not_writesTo {i : Fin 16} {n v : Int} (h : ¬ (n = (i.val : Int) + 1 ∧ 0 ≤ v ∧ v ≤ 2047)) :
    ¬ writesTo i (n, v) = true :=
  fun hw => h (of_decide_eq_true hw)

theorem sparesInTick_of_command {i : Fin 16} {c : GrammarCommand} (h : c.Spares (i.val + 1)) :
    ∀ j ∈ c.instrs, SparesInTick i j := by
  cases c with
  | set n v => exact List.forall_mem_singleton.2 (not_writesTo h)
  | clear n => exact List.forall_mem_singleton.2 h
  | clearAll => exact h.elim
  | status => exact List.forall_mem_singleton.2 trivial
  | batch items =>
    intro j hj
    obtain hj | hj := List.mem_append.1 hj
    · obtain hj | hj := List.mem_append.1 hj
      · exact List.mem_singleton.1 hj ▸ trivial
      · obtain ⟨item, hitem, rfl⟩ := List.mem_map.1 hj
        exact not_writesTo (h item hitem)
    · exact List.mem_singleton.1 hj ▸ trivial

/-- The transactions of a tick between TICK_BEGIN and TICK_END (R78). -/
def TimedTick.body (k : TimedTick) : List Instr :=
  rxBytes k.bytes ++ k.commands.flatMap GrammarCommand.instrs

theorem sparesInTick_of_body {i : Fin 16} {k : TimedTick}
    (h : ∀ c ∈ k.commands, c.Spares (i.val + 1)) : ∀ j ∈ k.body, SparesInTick i j := by
  intro j hj
  obtain hj | hj := List.mem_append.1 hj
  · obtain ⟨b, -, rfl⟩ := List.mem_map.1 hj
    exact trivial
  · obtain ⟨c, hc, hj⟩ := List.mem_flatMap.1 hj
    exact sparesInTick_of_command (h c hc) j hj

/-- A tick whose commands spare the record ends in TICK_END's rule, on a state that has kept the record
since TICK_BEGIN. -/
theorem execAll_sparingTick {i : Fin 16} {k : TimedTick} {s : State} (hf : s.fault = false)
    (hp : s.phase = .idle) (h : ∀ c ∈ k.commands, c.Spares (i.val + 1) ∧ c.Short) :
    ∃ u, execAll k.instrs s = .next (ruleOf .tickEnd u) ∧ (ruleOf .tickEnd u).fault = false
      ∧ KeptInTick i (ruleOf (.tickBegin (tickTime k.time)) s) u := by
  obtain ⟨u, hu⟩ := execAll_next k.body (ruleOf (.tickBegin (tickTime k.time)) s)
  have hkept := keptInTick_execAll (sparesInTick_of_body fun c hc => (h c hc).1) hu
  obtain ⟨t, ht, hft, -⟩ := leads_tick (k := ⟨tickTime k.time, k.bytes, k.commands⟩)
    (fun items hc => (h _ hc).2) s hf hp
  have hopen : execAll ([.tickBegin (tickTime k.time)] ++ k.body) s = .next u :=
    (execAll_cons (exec_tickBegin hf hp _) _).trans hu
  have hend : execAll k.instrs s = exec .tickEnd u := by
    obtain ⟨v, hv⟩ := exec_next .tickEnd u
    rw [hv]
    exact (execAll_append hopen [.tickEnd]).trans (execAll_cons hv [])
  obtain ⟨hfu, rfl⟩ | ⟨-, -, rfl⟩ | ⟨-, -, rfl⟩ := exec_cases (hend.symm.trans ht)
  · rw [hft] at hfu; cases hfu
  · cases hft
  · exact ⟨u, ht, hft, hkept⟩

/-! ### A record's life in true time (R206, R232) -/

/-- Under the duty, true times never decrease. -/
theorem TimeDuty.le_of_mem {t0 t : Nat} {ts : List Nat} (h : TimeDuty (t0 :: ts)) (ht : t ∈ ts) :
    t0 ≤ t := by
  have hle : (t0 :: ts).IsChain (· ≤ ·) := h.imp fun _ _ hab => hab.1
  exact (List.pairwise_cons.1 hle.pairwise).1 t ht

theorem TimeDuty.gap_of_last {t0 t1 : Nat} {ts : List Nat} (h : TimeDuty (t0 :: ts ++ [t1])) :
    ∃ t ∈ t0 :: ts, t1 - t < 2 ^ 31 :=
  ⟨(t0 :: ts).getLast (List.cons_ne_nil _ _), List.getLast_mem _,
    ((List.isChain_append.1 h).2.2 _ (List.getLast?_eq_getLast_of_ne_nil _) t1 rfl).2⟩

/-- The 32-bit clock measures a true duration that fits it, also where it wraps (R206). -/
theorem toNat_tickTime_sub {t0 t : Nat} (hle : t0 ≤ t) (hlt : t - t0 < 2 ^ 32) :
    (tickTime t - tickTime t0).toNat = t - t0 := by
  simp only [tickTime, BitVec.toNat_sub, BitVec.toNat_ofNat]
  omega

/-- Between ticks of a block with the stated lifetime, record `i` is `r`. -/
structure RestsWith (i : Fin 16) (r : OvRecord) (s : State) : Prop where
  fault : s.fault = false
  phase : s.phase = .idle
  life : s.cfg.ovrLifeMs = 2000
  record : s.ov[i] = r

/-- A tick that spares the record reaches TICK_END with it, where the true time since its setting
decides whether it has expired. -/
theorem RestsWith.execAll_tick {i : Fin 16} {v : Chan} {t0 : Nat} {s : State}
    (h : RestsWith i ⟨true, v, tickTime t0⟩ s) {k : TimedTick} (hle : t0 ≤ k.time)
    (hlt : k.time - t0 < 2 ^ 32) (hk : ∀ c ∈ k.commands, c.Spares (i.val + 1) ∧ c.Short) :
    ∃ u, execAll k.instrs s = .next (ruleOf .tickEnd u)
      ∧ (ruleOf .tickEnd u).fault = false ∧ u.cfg.ovrLifeMs = 2000
      ∧ u.ov[i] = ⟨true, v, tickTime t0⟩ ∧ u.now = tickTime k.time ∧ s.tel <+: u.tel
      ∧ (u.expired i = true ↔ t0 + 2000 < k.time) := by
  obtain ⟨u, hu, hfu, hkept⟩ := execAll_sparingTick h.fault h.phase hk
  have hrecord : u.ov[i] = ⟨true, v, tickTime t0⟩ := hkept.record.trans h.record
  have hlife : u.cfg.ovrLifeMs = 2000 := (congrArg Config.ovrLifeMs hkept.cfg).trans h.life
  have hnow : u.now = tickTime k.time := hkept.now
  refine ⟨u, hu, hfu, hlife, hrecord, hnow, hkept.tel, ?_⟩
  rw [expired_iff_of_stated hlife hrecord, hnow, toNat_tickTime_sub hle hlt]
  omega

/-- Through a tick within its lifetime the override lives, and is the output. -/
theorem RestsWith.livingTick {i : Fin 16} {v : Chan} {t0 : Nat} {s : State}
    (h : RestsWith i ⟨true, v, tickTime t0⟩ s) {k : TimedTick} (hle : t0 ≤ k.time)
    (hlive : k.time ≤ t0 + 2000) (hk : ∀ c ∈ k.commands, c.Spares (i.val + 1) ∧ c.Short) :
    ∃ t, execAll k.instrs s = .next t ∧ RestsWith i ⟨true, v, tickTime t0⟩ t ∧ t.outCh[i] = v := by
  obtain ⟨u, hu, hfu, hlife, hrecord, -, -, hexpired⟩ := h.execAll_tick hle (by omega) hk
  obtain ⟨hr, ho⟩ := settled_of_living (i := i) (by rw [hrecord]) (hexpired.not.2 hlive.not_gt)
  refine ⟨_, hu, ⟨hfu, ?_, ?_, ?_⟩, ?_⟩
  · rw [ruleOf_tickEnd_eq]
  · rw [ruleOf_cfg, hlife]
  · rw [getElem_ov_tickEnd, hr, hrecord]
  · rw [getElem_outCh_tickEnd, ho, hrecord]

theorem RestsWith.livingTicks {i : Fin 16} {v : Chan} {t0 : Nat} {ks : List TimedTick} {s : State}
    (h : RestsWith i ⟨true, v, tickTime t0⟩ s) (hle : ∀ k ∈ ks, t0 ≤ k.time)
    (hlive : ∀ k ∈ ks, k.time ≤ t0 + 2000)
    (hks : ∀ k ∈ ks, ∀ c ∈ k.commands, c.Spares (i.val + 1) ∧ c.Short) :
    ∃ t, execAll (ks.flatMap TimedTick.instrs) s = .next t
      ∧ RestsWith i ⟨true, v, tickTime t0⟩ t ∧ (ks ≠ [] → t.outCh[i] = v) := by
  induction ks using List.reverseRecOn with
  | nil => exact ⟨s, rfl, h, fun hne => absurd rfl hne⟩
  | append_singleton ks k ih =>
    simp only [List.forall_mem_append, List.forall_mem_singleton] at hle hlive hks
    obtain ⟨u, hu, hrest, -⟩ := ih hle.1 hlive.1 hks.1
    obtain ⟨t, ht, hrest', hout⟩ := hrest.livingTick hle.2 hlive.2 hks.2
    refine ⟨t, ?_, hrest', fun _ => hout⟩
    rw [List.flatMap_append, execAll_append hu, List.flatMap_singleton, ht]

/-- At the first tick past its lifetime the override ends, with its event. -/
theorem RestsWith.expiringTick {i : Fin 16} {v : Chan} {t0 : Nat} {s : State}
    (h : RestsWith i ⟨true, v, tickTime t0⟩ s) {k : TimedTick} (hlt : k.time - t0 < 2 ^ 32)
    (hpast : t0 + 2000 < k.time) (hk : ∀ c ∈ k.commands, c.Spares (i.val + 1) ∧ c.Short) :
    ∃ t, execAll k.instrs s = .next t ∧ t.ov[i].active = false ∧ t.outCh[i] = t.inCh[i]
      ∧ Event.overrideExpired (i.val + 1) (tickTime k.time) ∈ t.tel.drop s.tel.length := by
  obtain ⟨u, hu, -, -, -, hnow, ⟨l, htel⟩, hexpired⟩ := h.execAll_tick (by omega) hlt hk
  have hexpired : u.expired i = true := hexpired.2 hpast
  obtain ⟨hr, ho⟩ := settled_of_expired hexpired
  have hinput := (ruleOf_input_of_ne_rxByte (i := .tickEnd) nofun u).1
  refine ⟨_, hu, ?_, ?_, ?_⟩
  · rw [getElem_ov_tickEnd, hr]
  · rw [getElem_outCh_tickEnd, ho, hinput]
  · have hevent : Event.overrideExpired (i.val + 1) (tickTime k.time) ∈ expiryEvents u indices :=
      List.mem_map.2 ⟨i, List.mem_filter.2 ⟨List.mem_finRange i, hexpired⟩, by rw [hnow]; rfl⟩
    rw [tel_tickEnd, ← htel, List.append_assoc, List.drop_left]
    exact List.mem_append_right _
      (List.mem_append_left _ (List.mem_append_left _ hevent))

/-- Settles O50: the living ticks keep the override, and the duty bounds the last gap, so that the
32-bit clock sees the true time since the setting. -/
theorem overrideExpiresInTrueTime : Obligations.OverrideExpiresInTrueTime := by
  intro s i v t0 ks k1 hf hp hlife hrecord hduty hlive hpast hspares
  have hrest : RestsWith i ⟨true, v, tickTime t0⟩ s := ⟨hf, hp, hlife, hrecord⟩
  simp only [List.forall_mem_append, List.forall_mem_singleton] at hspares
  have hle : ∀ k ∈ ks, t0 ≤ k.time := fun k hk =>
    TimeDuty.le_of_mem hduty (List.mem_append_left _ (List.mem_map_of_mem hk))
  have hgap : k1.time - t0 < 2 ^ 32 := by
    obtain ⟨t, ht, hlt⟩ := hduty.gap_of_last
    have ht : t ≤ t0 + 2000 := by
      obtain rfl | ht := List.mem_cons.1 ht
      · omega
      · obtain ⟨k, hk, rfl⟩ := List.mem_map.1 ht
        exact hlive k hk
    omega
  obtain ⟨u, hu, hrest', hout⟩ := hrest.livingTicks hle hlive hspares.1
  obtain ⟨w, hw, hactive, hinput, hevent⟩ := hrest'.expiringTick hgap hpast hspares.2
  exact ⟨u, w, hu, hrest'.record.trans hrecord.symm, hout, hw, hactive, hinput, hevent⟩

end Sys2Proof.Machine
end

section
/-! The opening of a tick (43_tick.md R170). -/

namespace Sys2Proof.Machine

/-- Settles O16: IDLE is the phase that takes TICK_BEGIN (R81), so its rule runs, whatever the time. -/
theorem tickBeginOpensTick : Obligations.TickBeginOpensTick :=
  fun _ t hf hp => exec_tickBegin hf hp t

end Sys2Proof.Machine
end

section
/-! The proofs about the port fault (60_exceptions.md): the step that always answers, what taking the
fault writes, and what a faulted block still does. -/

namespace Sys2Proof.Machine

/-! ### Every step answers, and nothing presented is nothing done (R190, R195, R210) -/

/-- With nothing presented the block holds its state (R210; log entry 2). -/
theorem step_of_idle {s : State} (h : s.host = []) : step s = .next s := by
  simp [step, takeAction, h]

/-- Settles O8. -/
theorem everyStepAnswersAndIdleHolds : Obligations.EveryStepAnswersAndIdleHolds :=
  ⟨step_next, fun _ => step_of_idle⟩

/-! ### Taking the fault (R196, R197) -/

theorem PortFaultCode.code_cases (c : PortFaultCode) :
    c.code = 1 ∨ c.code = 2 ∨ c.code = 3 ∨ c.code = 4 := by
  cases c <;> decide

/-- A transaction that leaves an unfaulted block faulted did nothing but raise a port fault: the only
rule that can end faulted is the overflowing item's, which raises one too (R145). -/
theorem eq_raisePortFault_of_transact {w : PortWords} {s t : State} (hf : s.fault = false)
    (h : transact w s = .next t) (ht : t.fault = true) : ∃ c, t = s.raisePortFault c := by
  obtain ⟨hfault, -⟩ | ⟨-, hraised⟩ | ⟨-, i, p, -, -, rfl⟩ := transact_cases h
  · exact absurd hfault (by simp [hf])
  · exact hraised
  · obtain ⟨hkept, -⟩ | hoverflow := ruleOf_fault_cases i s
    · exact absurd ht (by simp [hkept, hf])
    · exact ⟨.batchOverflow, hoverflow⟩

/-- Settles O10: whichever check or rule raises it, a fault is `raisePortFault` of a code of R197. -/
theorem portFaultChangesNothingElse : Obligations.PortFaultChangesNothingElse := by
  intro w s t hf h ht
  obtain ⟨c, rfl⟩ := eq_raisePortFault_of_transact hf h ht
  exact ⟨c.code, c.code_cases, rfl⟩

/-! ### The faulted block (R198) -/

/-- The state after the drains among the host's actions `as`, all its other actions being ignored: each
drain has removed the oldest entry of its queue (R58; log entry 3). -/
def State.drained (s : State) (as : List HostAction) : State :=
  { s with
    tel := s.tel.drop (as.count .drainTel)
    ftx := s.ftx.drop (as.count .drainFtx) }

theorem drained_cons (s : State) (a : HostAction) (as : List HostAction) :
    s.drained (a :: as) = (s.drained [a]).drained as := by
  simp only [State.drained, List.drop_drop, ← List.count_append, List.singleton_append]

/-- Faulted, the block ignores a transaction, and of the host's other actions only reset does more than
drain. -/
theorem perform_of_fault {a : HostAction} {s : State} (hf : s.fault = true)
    (ha : a ≠ .assertReset) : perform a s = .next (s.drained [a]) := by
  cases a with
  | transact w => exact transact_of_fault hf
  | assertReset => exact absurd rfl ha
  | drainTel => simp [perform, State.drained]
  | drainFtx => simp [perform, State.drained]

/-- The whole run of a faulted block over `n` actions without a reset. -/
theorem runFor_of_fault {n : Nat} {s : State} (hf : s.fault = true)
    (hreset : HostAction.assertReset ∉ s.host.take n) :
    runFor n s = .next ({ s with host := s.host.drop n }.drained (s.host.take n)) := by
  induction n generalizing s with
  | zero => rfl
  | succ n ih =>
    cases hhost : s.host with
    | nil =>
      rw [runFor_succ n (step_of_idle hhost), ih hf (by simp [hhost])]
      simp [hhost]
    | cons a rest =>
      rw [hhost, List.take_succ_cons, List.mem_cons, not_or] at hreset
      obtain ⟨ha, hrest⟩ := hreset
      have hstep : step s = .next ({ s with host := rest }.drained [a]) :=
        (step_of_host hhost).trans (perform_of_fault hf (Ne.symm ha))
      rw [runFor_succ n hstep, List.take_succ_cons, List.drop_succ_cons,
        drained_cons _ a (rest.take n)]
      exact ih (s := { s with host := rest }.drained [a]) hf hrest

/-- Presented transactions drain nothing. -/
theorem drained_of_transacts (s : State) {as : List HostAction}
    (h : ∀ a ∈ as, ∃ w, a = .transact w) : s.drained as = s := by
  have hcount (a : HostAction) (ha : ∀ w, a ≠ .transact w) : as.count a = 0 :=
    List.count_eq_zero_of_not_mem fun hmem => (h a hmem).elim ha
  simp [State.drained, hcount .drainTel nofun, hcount .drainFtx nofun]

/-- Settles O11: the run changes the host's list and does the drains, each of which drops from the front
of its queue. -/
theorem faultIsStickyUntilReset : Obligations.FaultIsStickyUntilReset := by
  intro n s hf hreset
  refine ⟨_, runFor_of_fault hf hreset, rfl, List.drop_suffix _ _, List.drop_suffix _ _, fun h => ?_⟩
  rw [drained_of_transacts _ h]
  exact ⟨rfl, rfl⟩

end Sys2Proof.Machine
end

section
/-! The proofs about reset (70_reset_and_hazards.md): what it erases, and which of its values show. -/

namespace Sys2Proof.Machine

/-! ### Reset and the port fault (R203, R222) -/

/-- A step out of a port fault has taken a reset from the host (R203): idle it keeps the state, and any
other action keeps the fault. -/
theorem head?_host_of_step_clears_fault {s t : State} (hf : s.fault = true)
    (h : step s = .next t) (ht : t.fault = false) : s.host.head? = some .assertReset := by
  obtain ⟨-, rfl⟩ | ⟨a, rest, hhost, hperform⟩ := step_cases h
  · exact absurd hf (Bool.eq_false_iff.1 ht)
  · by_cases ha : a = .assertReset
    · rw [hhost, ha, List.head?_cons]
    · rw [perform_of_fault (s := { s with host := rest }) hf ha] at hperform
      cases hperform
      exact absurd hf (Bool.eq_false_iff.1 ht)

/-- Settles O13: reset writes the reset state in whatever state the host asserts it, and a faulted block
does no more than drain at any other action. -/
theorem resetErasesAllAndAloneClearsFault : Obligations.ResetErasesAllAndAloneClearsFault :=
  ⟨fun _ _ hhost => step_of_host hhost, fun _ _ => head?_host_of_step_clears_fault⟩

/-! ### Reset values nothing shows (R221) -/

theorem active_resetWith (c : Config) (i : Fin 16) :
    (State.resetWith c).ov[i].active = false := by
  simp [State.resetWith, OvRecord.atReset]

/-- Settles O57: after reset the block is in IDLE, no byte of the buffer is a frame's (`idx` is 0) and no
record is active, so that `LooksLike` compares none of the elements that differ. -/
theorem unobservableResetValues : Obligations.UnobservableResetValues := by
  intro c hs inCh outCh fl fs fd buf now count vals
  have hidle : (State.resetWith c).phase = .idle := rfl
  exact
    { tel := rfl, ftx := rfl, fault := rfl, faultCode := rfl, phase := rfl, idx := rfl
      connected := rfl, lastFrameTime := rfl, lastDiscNotify := rfl, cfg := rfl, host := rfl
      buf := nofun
      active := fun i => (active_resetWith c i).trans (by simp)
      record := fun i h => absurd h (Bool.eq_false_iff.1 (active_resetWith c i))
      now := fun h => absurd hidle h
      frameDone := fun h => absurd hidle h
      input := fun h => absurd hidle h
      batchCount := nofun }

end Sys2Proof.Machine
end
